-- ==== Sys2Proof/Word.lean ====
section
/-! DEFINITION. Words, halfwords and bytes (00_scope R5, R6, R19; 20_memory R51). -/

namespace Sys2Proof

/-- A register value, an address or an arithmetic result: 32 bits (R5 `XLEN`, R20). -/
abbrev Word := BitVec 32

/-- One instruction halfword: 16 bits, numbered 15 down to 0 (R6, R80). -/
abbrev Half := BitVec 16

/-- A byte is 8 bits (R51). -/
abbrev Byte := BitVec 8

end Sys2Proof
end

