-- ==== Sys2Proof/Config.lean ====
section
/-! DEFINITION. The parameters of rule R5 as plain data, and the free values: what the spec leaves open. -/

namespace Sys2Proof

/-- `IMM_SHIFT0` (R5, R131, R228, D10): what the field value 0 of the two immediate right shifts means.
`unset` is the rule's 'no value given: `refuse`'. -/
inductive ImmShift0 where
  | amount0
  | amount32
  | unset
  deriving DecidableEq, Repr

/-- `COND14` (R5, R86, R192, D13): what `IF cond GOTO n8` with `cond` = 14 is. -/
inductive Cond14 where
  | always
  | undefined
  deriving DecidableEq, Repr

/-- `TRAP_MODEL` (R5, R292, D20): a trap ends the run, or is taken as R305 to R315 describe. -/
inductive TrapModel where
  | terminal
  | armv6m
  deriving DecidableEq, Repr

/-- `UNKNOWN_GROUP` (R5, R97, D25): whether the twelve instructions of 49_unknown_encoding are admitted
(the rule's `refuse` and its alternative). -/
inductive UnknownGroup where
  | refused
  | admitted
  deriving DecidableEq, Repr

/-- What a range of addresses is (R58, R60, R322): plain memory, a device of the environment, or the core's own
system control space. -/
inductive RegionKind where
  | plain
  | device
  | system
  deriving DecidableEq, Repr

/-- One range of `MemMap` (R58): its first address, its size in bytes, what it admits and what it is. -/
structure Region where
  base : Nat
  size : Nat
  readable : Bool
  writable : Bool
  executable : Bool
  kind : RegionKind
  deriving DecidableEq, Repr

/-- The parameters of the model (R5). They are data of the state, so that a statement over every state covers every
value of every parameter; no step changes them. -/
structure Config where
  immShift0 : ImmShift0
  cond14 : Cond14
  trapModel : TrapModel
  unknownGroup : UnknownGroup
  memMap : List Region
  deriving DecidableEq, Repr

/-- FREE VALUE (log 13). The words that the spec leaves open, one for each number of a use (U16, U19, R332). -/
opaque Config.freeWord : Nat → Word

/-- FREE VALUE (log 14). The choices that the spec leaves open: the order of a `PUSH`'s stores (R59, U15). -/
opaque Config.freeChoice : Nat → Nat

/-- FREE VALUE (log 21). How many SysTick clocks pass between two instruction boundaries (R322; timing is out of
scope, R4). -/
opaque Config.sysTickClocks : Nat → Nat

/-- FREE VALUE (log 22). The content of CPUID, 'identification' (R322). -/
opaque Config.cpuid : Word

/-- FREE VALUE (log 22). The content of SYST_CALIB, 'calibration' (R322). -/
opaque Config.systCalib : Word

end Sys2Proof
end

