-- ==== Sys2Proof/Syntax.lean ====
section
/-! DEFINITION. The instructions: one constructor per row of spec/opcode_table.json, with the fields of 30_encoding R82
to R86. `BitVec 3` is a low register field, `BitVec 4` a field for any of the sixteen registers (R83). -/

namespace Sys2Proof

/-- The instruction set of the ten tables (R3). -/
inductive Instr where
  -- 代入, 40_assign
  | movImm (rd : BitVec 3) (u8 : BitVec 8)
  | movReg (rd rm : BitVec 4)
  -- 演算, 41_arith
  | addImm8 (rd : BitVec 3) (u8 : BitVec 8)
  | subImm8 (rd : BitVec 3) (u8 : BitVec 8)
  | adr (rd : BitVec 3) (u8 : BitVec 8)
  | addHi (rd rm : BitVec 4)
  | addImm3 (rd rn : BitVec 3) (u3 : BitVec 3)
  | subImm3 (rd rn : BitVec 3) (u3 : BitVec 3)
  | addReg (rd rn rm : BitVec 3)
  | subReg (rd rn rm : BitVec 3)
  | neg (rd rm : BitVec 3)
  | mul (rd rm : BitVec 3)
  | lslImm (rd rm : BitVec 3) (u5 : BitVec 5)
  | lsrImm (rd rm : BitVec 3) (u5 : BitVec 5)
  | lslReg (rd rm : BitVec 3)
  | lsrReg (rd rm : BitVec 3)
  | mvn (rd rm : BitVec 3)
  | andReg (rd rm : BitVec 3)
  | orrReg (rd rm : BitVec 3)
  | eorReg (rd rm : BitVec 3)
  -- メモリアクセス, 42_memaccess
  | ldrbImm (rd rn : BitVec 3) (u5 : BitVec 5)
  | ldrhImm (rd rn : BitVec 3) (u5 : BitVec 5)
  | ldrImm (rd rn : BitVec 3) (u5 : BitVec 5)
  | ldrPc (rd : BitVec 3) (u8 : BitVec 8)
  | ldrbReg (rd rn rm : BitVec 3)
  | ldrsbReg (rd rn rm : BitVec 3)
  | ldrhReg (rd rn rm : BitVec 3)
  | ldrshReg (rd rn rm : BitVec 3)
  | ldrReg (rd rn rm : BitVec 3)
  | strbImm (rd rn : BitVec 3) (u5 : BitVec 5)
  | strhImm (rd rn : BitVec 3) (u5 : BitVec 5)
  | strImm (rd rn : BitVec 3) (u5 : BitVec 5)
  | strbReg (rd rn rm : BitVec 3)
  | strhReg (rd rn rm : BitVec 3)
  | strReg (rd rn rm : BitVec 3)
  -- 条件判断, 43_compare
  | cmpImm (rn : BitVec 3) (u8 : BitVec 8)
  | cmpHi (rn rm : BitVec 4)
  | cmpReg (rn rm : BitVec 3)
  | cmn (rn rm : BitVec 3)
  | tst (rn rm : BitVec 3)
  -- 分岐, 44_branch
  | ifZero (n8 : BitVec 8)
  | ifNonZero (n8 : BitVec 8)
  | ifCond (cond : BitVec 4) (n8 : BitVec 8)
  | gotoImm (n11 : BitVec 11)
  | gotoReg (rm : BitVec 4)
  | gosubReg (rm : BitVec 4)
  | gosubImm (n22 : BitVec 22)
  | ret
  -- スタック, 45_stack; bit 8 of the list of `push` is LR, of `pop` PC
  | push (list : BitVec 9)
  | pop (list : BitVec 9)
  | spAdd (u7 : BitVec 7)
  | spSub (u7 : BitVec 7)
  | addSp (rd : BitVec 3) (u8 : BitVec 8)
  | ldrSp (rd : BitVec 3) (u8 : BitVec 8)
  | strSp (rd : BitVec 3) (u8 : BitVec 8)
  -- 特殊演算, 46_special
  | rev (rd rm : BitVec 3)
  | rev16 (rd rm : BitVec 3)
  | revsh (rd rm : BitVec 3)
  | asrImm (rd rm : BitVec 3) (u5 : BitVec 5)
  | asrReg (rd rm : BitVec 3)
  | bic (rd rm : BitVec 3)
  | ror (rd rm : BitVec 3)
  | adc (rd rm : BitVec 3)
  | sbc (rd rm : BitVec 3)
  -- メモリアクセス2, 47_multimem
  | ldm (rn : BitVec 3) (list : BitVec 8)
  | stm (rn : BitVec 3) (list : BitVec 8)
  -- その他, 48_misc
  | nop
  | cpsid
  | cpsie
  | wfi
  | bkpt (u8 : BitVec 8)
  | svc (u8 : BitVec 8)
  -- マシン語不明, 49_unknown_encoding
  | sxtb (rd rm : BitVec 3)
  | sxth (rd rm : BitVec 3)
  | uxtb (rd rm : BitVec 3)
  | uxth (rd rm : BitVec 3)
  | dmb (option : BitVec 4)
  | dsb (option : BitVec 4)
  | isb (option : BitVec 4)
  | mrs (rd : BitVec 4) (sysm : BitVec 8)
  | msr (rn : BitVec 4) (sysm : BitVec 8)
  | sev
  | wfe
  | yieldHint
  deriving DecidableEq, Repr

end Sys2Proof
end

