-- ==== Sys2Proof/WellFormed.lean ====
section
/-! DEFINITION. Which terms of `Instr` stand for words of their own row (30_encoding R86, R89). -/

namespace Sys2Proof

/-- A term is well formed when its encoding belongs to its own row. `IF cond GOTO n8` has `cond` 0 to 14: 15 is
`SVC u8` (R86). Four rows are special cases of another row (R89), and the words they own are theirs alone: the all-zero
word is `NOP`, 0x4770 is `RET`, `cond` 0 and 1 are `IF 0 GOTO` and `IF !0 GOTO`. -/
def Instr.wellFormed : Instr → Bool
  | .movImm _ _ => true
  | .movReg _ _ => true
  | .addImm8 _ _ => true
  | .subImm8 _ _ => true
  | .adr _ _ => true
  | .addHi _ _ => true
  | .addImm3 _ _ _ => true
  | .subImm3 _ _ _ => true
  | .addReg _ _ _ => true
  | .subReg _ _ _ => true
  | .neg _ _ => true
  | .mul _ _ => true
  | .lslImm rd rm u5 => !(rd == 0 && rm == 0 && u5 == 0)
  | .lsrImm _ _ _ => true
  | .lslReg _ _ => true
  | .lsrReg _ _ => true
  | .mvn _ _ => true
  | .andReg _ _ => true
  | .orrReg _ _ => true
  | .eorReg _ _ => true
  | .ldrbImm _ _ _ => true
  | .ldrhImm _ _ _ => true
  | .ldrImm _ _ _ => true
  | .ldrPc _ _ => true
  | .ldrbReg _ _ _ => true
  | .ldrsbReg _ _ _ => true
  | .ldrhReg _ _ _ => true
  | .ldrshReg _ _ _ => true
  | .ldrReg _ _ _ => true
  | .strbImm _ _ _ => true
  | .strhImm _ _ _ => true
  | .strImm _ _ _ => true
  | .strbReg _ _ _ => true
  | .strhReg _ _ _ => true
  | .strReg _ _ _ => true
  | .cmpImm _ _ => true
  | .cmpHi _ _ => true
  | .cmpReg _ _ => true
  | .cmn _ _ => true
  | .tst _ _ => true
  | .ifZero _ => true
  | .ifNonZero _ => true
  | .ifCond cond _ => cond != 0 && cond != 1 && cond != 15
  | .gotoImm _ => true
  | .gotoReg rm => rm != 14
  | .gosubReg _ => true
  | .gosubImm _ => true
  | .ret => true
  | .push _ => true
  | .pop _ => true
  | .spAdd _ => true
  | .spSub _ => true
  | .addSp _ _ => true
  | .ldrSp _ _ => true
  | .strSp _ _ => true
  | .rev _ _ => true
  | .rev16 _ _ => true
  | .revsh _ _ => true
  | .asrImm _ _ _ => true
  | .asrReg _ _ => true
  | .bic _ _ => true
  | .ror _ _ => true
  | .adc _ _ => true
  | .sbc _ _ => true
  | .ldm _ _ => true
  | .stm _ _ => true
  | .nop => true
  | .cpsid => true
  | .cpsie => true
  | .wfi => true
  | .bkpt _ => true
  | .svc _ => true
  | .sxtb _ _ => true
  | .sxth _ _ => true
  | .uxtb _ _ => true
  | .uxth _ _ => true
  | .dmb _ => true
  | .dsb _ => true
  | .isb _ => true
  | .mrs _ _ => true
  | .msr _ _ => true
  | .sev => true
  | .wfe => true
  | .yieldHint => true

end Sys2Proof
end

