-- ==== Sys2Proof/Decode.lean ====
section
/-! DEFINITION. Decoding and encoding: the opcode map of 30_encoding R88, the formats of R82, the encodings of R97. -/

namespace Sys2Proof

/-! ### Decoding -/

/-- R81: a first halfword with `h[15:11]` = 11110 begins a 32-bit instruction; every other one is 16 bits. -/
def isWide (h : Half) : Bool := h.extractLsb' 11 5 == 0b11110#5

/-- R88, `h[15:10]` = 010000: the sixteen two-register operations, by `h[9:6]`. -/
def decodeDataProcessing (h : Half) : Instr :=
  let rm := h.extractLsb' 3 3
  let rd := h.extractLsb' 0 3
  match h.extractLsb' 6 4 with
  | 0b0000#4 => .andReg rd rm
  | 0b0001#4 => .eorReg rd rm
  | 0b0010#4 => .lslReg rd rm
  | 0b0011#4 => .lsrReg rd rm
  | 0b0100#4 => .asrReg rd rm
  | 0b0101#4 => .adc rd rm
  | 0b0110#4 => .sbc rd rm
  | 0b0111#4 => .ror rd rm
  | 0b1000#4 => .tst rd rm
  | 0b1001#4 => .neg rd rm
  | 0b1010#4 => .cmpReg rd rm
  | 0b1011#4 => .cmn rd rm
  | 0b1100#4 => .orrReg rd rm
  | 0b1101#4 => .mul rd rm
  | 0b1110#4 => .bic rd rm
  | _ => .mvn rd rm

/-- R83: the 4-bit register `h[7] : h[2:0]` of format `HI`. -/
def splitRegister (h : Half) : BitVec 4 := h.extractLsb' 7 1 ++ h.extractLsb' 0 3

/-- R88, `h[15:10]` = 010001: the operations on any of the sixteen registers, by `h[9:8]`. -/
def decodeHighRegister (h : Half) : Option Instr :=
  let rm := h.extractLsb' 3 4
  match h.extractLsb' 8 2 with
  | 0b00#2 => some (.addHi (splitRegister h) rm)
  | 0b01#2 => some (.cmpHi (splitRegister h) rm)
  | 0b10#2 => some (.movReg (splitRegister h) rm)
  | _ =>
    if h.extractLsb' 0 3 ≠ 0 then none
    else if h.extractLsb' 7 1 = 1 then some (.gosubReg rm)
    else if rm = 14 then some .ret
    else some (.gotoReg rm)

/-- R88, `h[15:12]` = 0101: the nine register-offset loads and stores, by `h[11:9]`. -/
def decodeRegisterOffset (h : Half) : Instr :=
  let rm := h.extractLsb' 6 3
  let rn := h.extractLsb' 3 3
  let rd := h.extractLsb' 0 3
  match h.extractLsb' 9 3 with
  | 0b000#3 => .strReg rd rn rm
  | 0b001#3 => .strhReg rd rn rm
  | 0b010#3 => .strbReg rd rn rm
  | 0b011#3 => .ldrsbReg rd rn rm
  | 0b100#3 => .ldrReg rd rn rm
  | 0b101#3 => .ldrhReg rd rn rm
  | 0b110#3 => .ldrbReg rd rn rm
  | _ => .ldrshReg rd rn rm

/-- R88, `h[15:11]` = 10110, by `h[10:8]`; `0xB200` to `0xB2FF` are the extensions of R97. -/
def decodeMisc (h : Half) : Option Instr :=
  match h.extractLsb' 8 3 with
  | 0b000#3 =>
    if h.extractLsb' 7 1 = 0 then some (.spAdd (h.extractLsb' 0 7)) else some (.spSub (h.extractLsb' 0 7))
  | 0b010#3 =>
    match h.extractLsb' 6 2 with
    | 0b00#2 => some (.sxth (h.extractLsb' 0 3) (h.extractLsb' 3 3))
    | 0b01#2 => some (.sxtb (h.extractLsb' 0 3) (h.extractLsb' 3 3))
    | 0b10#2 => some (.uxth (h.extractLsb' 0 3) (h.extractLsb' 3 3))
    | _ => some (.uxtb (h.extractLsb' 0 3) (h.extractLsb' 3 3))
  | 0b100#3 => some (.push (h.extractLsb' 0 9))
  | 0b101#3 => some (.push (h.extractLsb' 0 9))
  | 0b110#3 => if h = 0xB662#16 then some .cpsie else if h = 0xB672#16 then some .cpsid else none
  | _ => none

/-- R88, `h[15:11]` = 10111, by `h[10:8]`; `0xBF10`, `0xBF20`, `0xBF40` are the hints of R97. -/
def decodeMisc2 (h : Half) : Option Instr :=
  match h.extractLsb' 8 3 with
  | 0b010#3 =>
    match h.extractLsb' 6 2 with
    | 0b00#2 => some (.rev (h.extractLsb' 0 3) (h.extractLsb' 3 3))
    | 0b01#2 => some (.rev16 (h.extractLsb' 0 3) (h.extractLsb' 3 3))
    | 0b11#2 => some (.revsh (h.extractLsb' 0 3) (h.extractLsb' 3 3))
    | _ => none
  | 0b100#3 => some (.pop (h.extractLsb' 0 9))
  | 0b101#3 => some (.pop (h.extractLsb' 0 9))
  | 0b110#3 => some (.bkpt (h.extractLsb' 0 8))
  | 0b111#3 =>
    if h = 0xBF30#16 then some .wfi
    else if h = 0xBF10#16 then some .yieldHint
    else if h = 0xBF20#16 then some .wfe
    else if h = 0xBF40#16 then some .sev
    else none
  | _ => none

/-- R86, R88, `h[15:12]` = 1101: the branch on a condition, and `SVC u8` in the place of `cond` = 15. -/
def decodeCondBranch (h : Half) : Instr :=
  let n8 := h.extractLsb' 0 8
  match h.extractLsb' 8 4 with
  | 0#4 => .ifZero n8
  | 1#4 => .ifNonZero n8
  | 15#4 => .svc n8
  | cond => .ifCond cond n8

/-- R88: the complete map of a 16-bit instruction; `none` is an unassigned halfword (R95). -/
def decode16 (h : Half) : Option Instr :=
  let lo := h.extractLsb' 0 3
  let mid := h.extractLsb' 3 3
  let u5 := h.extractLsb' 6 5
  let hi := h.extractLsb' 8 3
  let u8 := h.extractLsb' 0 8
  match h.extractLsb' 11 5 with
  | 0b00000#5 => if h = 0 then some .nop else some (.lslImm lo mid u5)
  | 0b00001#5 => some (.lsrImm lo mid u5)
  | 0b00010#5 => some (.asrImm lo mid u5)
  | 0b00011#5 =>
    match h.extractLsb' 9 2 with
    | 0b00#2 => some (.addReg lo mid (h.extractLsb' 6 3))
    | 0b01#2 => some (.subReg lo mid (h.extractLsb' 6 3))
    | 0b10#2 => some (.addImm3 lo mid (h.extractLsb' 6 3))
    | _ => some (.subImm3 lo mid (h.extractLsb' 6 3))
  | 0b00100#5 => some (.movImm hi u8)
  | 0b00101#5 => some (.cmpImm hi u8)
  | 0b00110#5 => some (.addImm8 hi u8)
  | 0b00111#5 => some (.subImm8 hi u8)
  | 0b01000#5 => if h.extractLsb' 10 1 = 0 then some (decodeDataProcessing h) else decodeHighRegister h
  | 0b01001#5 => some (.ldrPc hi u8)
  | 0b01010#5 => some (decodeRegisterOffset h)
  | 0b01011#5 => some (decodeRegisterOffset h)
  | 0b01100#5 => some (.strImm lo mid u5)
  | 0b01101#5 => some (.ldrImm lo mid u5)
  | 0b01110#5 => some (.strbImm lo mid u5)
  | 0b01111#5 => some (.ldrbImm lo mid u5)
  | 0b10000#5 => some (.strhImm lo mid u5)
  | 0b10001#5 => some (.ldrhImm lo mid u5)
  | 0b10010#5 => some (.strSp hi u8)
  | 0b10011#5 => some (.ldrSp hi u8)
  | 0b10100#5 => some (.adr hi u8)
  | 0b10101#5 => some (.addSp hi u8)
  | 0b10110#5 => decodeMisc h
  | 0b10111#5 => decodeMisc2 h
  | 0b11000#5 => some (.stm hi u8)
  | 0b11001#5 => some (.ldm hi u8)
  | 0b11010#5 => some (decodeCondBranch h)
  | 0b11011#5 => some (decodeCondBranch h)
  | 0b11100#5 => some (.gotoImm (h.extractLsb' 0 11))
  | _ => none

/-- R88 and R97: a pair of halfwords whose first begins 11110; `none` is an unassigned pair (R95). -/
def decode32 (h h2 : Half) : Option Instr :=
  if h2.extractLsb' 11 5 = 0b11111#5 then some (.gosubImm (h.extractLsb' 0 11 ++ h2.extractLsb' 0 11))
  else if h = 0xF3BF#16 then
    match h2.extractLsb' 4 12 with
    | 0x8F4#12 => some (.dsb (h2.extractLsb' 0 4))
    | 0x8F5#12 => some (.dmb (h2.extractLsb' 0 4))
    | 0x8F6#12 => some (.isb (h2.extractLsb' 0 4))
    | _ => none
  else if h = 0xF3EF#16 then
    if h2.extractLsb' 12 4 = 0b1000#4 then some (.mrs (h2.extractLsb' 8 4) (h2.extractLsb' 0 8)) else none
  else if h.extractLsb' 4 12 = 0xF38#12 then
    if h2.extractLsb' 8 8 = 0x88#8 then some (.msr (h.extractLsb' 0 4) (h2.extractLsb' 0 8)) else none
  else none

/-- Why bytes are no instruction: there are too few, or the halfword or the pair is unassigned (R95). -/
inductive DecodeError where
  | truncated
  | unassigned (h : Half) (h2 : Option Half)
  deriving DecidableEq, Repr

/-- The instruction of a first halfword and, where R81 asks for one, a second. -/
def decode (h : Half) (h2 : Option Half) : Except DecodeError Instr :=
  if isWide h then
    match h2 with
    | none => .error .truncated
    | some h2 =>
      match decode32 h h2 with
      | some i => .ok i
      | none => .error (.unassigned h (some h2))
  else
    match decode16 h with
    | some i => .ok i
    | none => .error (.unassigned h none)

/-- A halfword from its two bytes, the low byte first (R54, R57). -/
def halfOfBytes (b0 b1 : Byte) : Half := b1 ++ b0

/-- Decoding of a list of bytes: the instruction and the bytes after it. -/
def decodeBytes : List Byte → Except DecodeError (Instr × List Byte)
  | b0 :: b1 :: rest =>
    let h := halfOfBytes b0 b1
    if isWide h then
      match rest with
      | b2 :: b3 :: rest2 => (decode h (some (halfOfBytes b2 b3))).map (fun i => (i, rest2))
      | _ => .error .truncated
    else (decode h none).map (fun i => (i, rest))
  | _ => .error .truncated

/-- Whether the parameters admit an instruction (R5): the twelve of 49_unknown_encoding only with `UNKNOWN_GROUP =
admit` (R97, D25), `cond` = 14 only with `COND14 = always` (R86, R192, D13). -/
def Config.admits (c : Config) (i : Instr) : Bool :=
  match i with
  | .sxtb _ _ | .sxth _ _ | .uxtb _ _ | .uxth _ _ | .dmb _ | .dsb _ | .isb _ | .mrs _ _ | .msr _ _ | .sev | .wfe
  | .yieldHint => c.unknownGroup == .admitted
  | .ifCond cond _ => cond != 14 || c.cond14 == .always
  | _ => true

/-! ### Encoding -/

/-- Format `SHI` (R82). -/
def formatSHI (op : BitVec 5) (u5 : BitVec 5) (rm rd : BitVec 3) : Half := op ++ u5 ++ rm ++ rd

/-- Format `R3` (R82). -/
def formatR3 (op : BitVec 7) (rm rn rd : BitVec 3) : Half := op ++ rm ++ rn ++ rd

/-- Format `I3` (R82). -/
def formatI3 (op : BitVec 7) (u3 rn rd : BitVec 3) : Half := op ++ u3 ++ rn ++ rd

/-- Format `I8` (R82). -/
def formatI8 (op : BitVec 5) (rd : BitVec 3) (u8 : BitVec 8) : Half := op ++ rd ++ u8

/-- Format `R2` (R82). -/
def formatR2 (op : BitVec 10) (rm rd : BitVec 3) : Half := op ++ rm ++ rd

/-- Format `HI` (R82): `Rd` is split into bit 7 and bits 2 to 0 (R83). -/
def formatHI (op : BitVec 8) (rm rd : BitVec 4) : Half := op ++ rd.extractLsb' 3 1 ++ rm ++ rd.extractLsb' 0 3

/-- Format `BXF` (R82). -/
def formatBXF (op : BitVec 9) (rm : BitVec 4) : Half := op ++ rm ++ 0b000#3

/-- Format `MI5` (R82). -/
def formatMI5 (op : BitVec 5) (u5 : BitVec 5) (rn rd : BitVec 3) : Half := op ++ u5 ++ rn ++ rd

/-- Format `BC` (R82). -/
def formatBC (cond : BitVec 4) (n8 : BitVec 8) : Half := 0b1101#4 ++ cond ++ n8

/-- Format `B11` and the halves of `BL` (R82). -/
def formatB11 (op : BitVec 5) (n : BitVec 11) : Half := op ++ n

/-- Format `PL` (R82). -/
def formatPL (op : BitVec 7) (list : BitVec 9) : Half := op ++ list

/-- Format `ML` (R82). -/
def formatML (op : BitVec 5) (rn : BitVec 3) (list : BitVec 8) : Half := op ++ rn ++ list

/-- Format `S7` (R82). -/
def formatS7 (op : BitVec 9) (u7 : BitVec 7) : Half := op ++ u7

/-- Format `X8` (R82). -/
def formatX8 (op : BitVec 8) (u8 : BitVec 8) : Half := op ++ u8

/-- Format `T32` (R82), the second halfword of a barrier: `option` = `h2[3:0]`. -/
def formatBarrier (op : BitVec 12) (option : BitVec 4) : Half := op ++ option

/-- Format `T32` (R82), the second halfword of `Rd = spec_reg`. -/
def formatMrs (op rd : BitVec 4) (sysm : BitVec 8) : Half := op ++ rd ++ sysm

/-- The halfwords of an instruction, first halfword first (R82, R88, R97). -/
def encode : Instr → List Half
  | .movImm rd u8 => [formatI8 0b00100#5 rd u8]
  | .movReg rd rm => [formatHI 0b01000110#8 rm rd]
  | .addImm8 rd u8 => [formatI8 0b00110#5 rd u8]
  | .subImm8 rd u8 => [formatI8 0b00111#5 rd u8]
  | .adr rd u8 => [formatI8 0b10100#5 rd u8]
  | .addHi rd rm => [formatHI 0b01000100#8 rm rd]
  | .addImm3 rd rn u3 => [formatI3 0b0001110#7 u3 rn rd]
  | .subImm3 rd rn u3 => [formatI3 0b0001111#7 u3 rn rd]
  | .addReg rd rn rm => [formatR3 0b0001100#7 rm rn rd]
  | .subReg rd rn rm => [formatR3 0b0001101#7 rm rn rd]
  | .neg rd rm => [formatR2 0b0100001001#10 rm rd]
  | .mul rd rm => [formatR2 0b0100001101#10 rm rd]
  | .lslImm rd rm u5 => [formatSHI 0b00000#5 u5 rm rd]
  | .lsrImm rd rm u5 => [formatSHI 0b00001#5 u5 rm rd]
  | .lslReg rd rm => [formatR2 0b0100000010#10 rm rd]
  | .lsrReg rd rm => [formatR2 0b0100000011#10 rm rd]
  | .mvn rd rm => [formatR2 0b0100001111#10 rm rd]
  | .andReg rd rm => [formatR2 0b0100000000#10 rm rd]
  | .orrReg rd rm => [formatR2 0b0100001100#10 rm rd]
  | .eorReg rd rm => [formatR2 0b0100000001#10 rm rd]
  | .ldrbImm rd rn u5 => [formatMI5 0b01111#5 u5 rn rd]
  | .ldrhImm rd rn u5 => [formatMI5 0b10001#5 u5 rn rd]
  | .ldrImm rd rn u5 => [formatMI5 0b01101#5 u5 rn rd]
  | .ldrPc rd u8 => [formatI8 0b01001#5 rd u8]
  | .ldrbReg rd rn rm => [formatR3 0b0101110#7 rm rn rd]
  | .ldrsbReg rd rn rm => [formatR3 0b0101011#7 rm rn rd]
  | .ldrhReg rd rn rm => [formatR3 0b0101101#7 rm rn rd]
  | .ldrshReg rd rn rm => [formatR3 0b0101111#7 rm rn rd]
  | .ldrReg rd rn rm => [formatR3 0b0101100#7 rm rn rd]
  | .strbImm rd rn u5 => [formatMI5 0b01110#5 u5 rn rd]
  | .strhImm rd rn u5 => [formatMI5 0b10000#5 u5 rn rd]
  | .strImm rd rn u5 => [formatMI5 0b01100#5 u5 rn rd]
  | .strbReg rd rn rm => [formatR3 0b0101010#7 rm rn rd]
  | .strhReg rd rn rm => [formatR3 0b0101001#7 rm rn rd]
  | .strReg rd rn rm => [formatR3 0b0101000#7 rm rn rd]
  | .cmpImm rn u8 => [formatI8 0b00101#5 rn u8]
  | .cmpHi rn rm => [formatHI 0b01000101#8 rm rn]
  | .cmpReg rn rm => [formatR2 0b0100001010#10 rm rn]
  | .cmn rn rm => [formatR2 0b0100001011#10 rm rn]
  | .tst rn rm => [formatR2 0b0100001000#10 rm rn]
  | .ifZero n8 => [formatBC 0#4 n8]
  | .ifNonZero n8 => [formatBC 1#4 n8]
  | .ifCond cond n8 => [formatBC cond n8]
  | .gotoImm n11 => [formatB11 0b11100#5 n11]
  | .gotoReg rm => [formatBXF 0b010001110#9 rm]
  | .gosubReg rm => [formatBXF 0b010001111#9 rm]
  | .gosubImm n22 => [formatB11 0b11110#5 (n22.extractLsb' 11 11), formatB11 0b11111#5 (n22.extractLsb' 0 11)]
  | .ret => [0x4770#16]
  | .push list => [formatPL 0b1011010#7 list]
  | .pop list => [formatPL 0b1011110#7 list]
  | .spAdd u7 => [formatS7 0b101100000#9 u7]
  | .spSub u7 => [formatS7 0b101100001#9 u7]
  | .addSp rd u8 => [formatI8 0b10101#5 rd u8]
  | .ldrSp rd u8 => [formatI8 0b10011#5 rd u8]
  | .strSp rd u8 => [formatI8 0b10010#5 rd u8]
  | .rev rd rm => [formatR2 0b1011101000#10 rm rd]
  | .rev16 rd rm => [formatR2 0b1011101001#10 rm rd]
  | .revsh rd rm => [formatR2 0b1011101011#10 rm rd]
  | .asrImm rd rm u5 => [formatSHI 0b00010#5 u5 rm rd]
  | .asrReg rd rm => [formatR2 0b0100000100#10 rm rd]
  | .bic rd rm => [formatR2 0b0100001110#10 rm rd]
  | .ror rd rm => [formatR2 0b0100000111#10 rm rd]
  | .adc rd rm => [formatR2 0b0100000101#10 rm rd]
  | .sbc rd rm => [formatR2 0b0100000110#10 rm rd]
  | .ldm rn list => [formatML 0b11001#5 rn list]
  | .stm rn list => [formatML 0b11000#5 rn list]
  | .nop => [0x0000#16]
  | .cpsid => [0xB672#16]
  | .cpsie => [0xB662#16]
  | .wfi => [0xBF30#16]
  | .bkpt u8 => [formatX8 0b10111110#8 u8]
  | .svc u8 => [formatX8 0b11011111#8 u8]
  | .sxtb rd rm => [formatR2 0b1011001001#10 rm rd]
  | .sxth rd rm => [formatR2 0b1011001000#10 rm rd]
  | .uxtb rd rm => [formatR2 0b1011001011#10 rm rd]
  | .uxth rd rm => [formatR2 0b1011001010#10 rm rd]
  | .dmb option => [0xF3BF#16, formatBarrier 0x8F5#12 option]
  | .dsb option => [0xF3BF#16, formatBarrier 0x8F4#12 option]
  | .isb option => [0xF3BF#16, formatBarrier 0x8F6#12 option]
  | .mrs rd sysm => [0xF3EF#16, formatMrs 0b1000#4 rd sysm]
  | .msr rn sysm => [formatBarrier 0xF38#12 rn, formatX8 0x88#8 sysm]
  | .sev => [0xBF40#16]
  | .wfe => [0xBF20#16]
  | .yieldHint => [0xBF10#16]

/-- The two bytes of a halfword in memory order, the low byte first (R54). -/
def halfBytes (h : Half) : List Byte := [h.extractLsb' 0 8, h.extractLsb' 8 8]

/-- The bytes of an instruction in memory order. -/
def encodeBytes (i : Instr) : List Byte := (encode i).flatMap halfBytes

/-! ### The table's numbering -/

/-- The two halfwords of a table word. A 16-bit row is the halfword itself, and zeros follow it. A 32-bit row of
spec/opcode_table.json is `h`·65536 + `h2` (R82, format `T32`): the first halfword is the one that begins 11110, which
the second of no row does, so that a word numbered from its first halfword up is read as well (log 10). -/
def tableHalves (nbits w : Nat) : Half × Half :=
  let v := w % 2 ^ nbits
  let low : Half := BitVec.ofNat 16 v
  let high : Half := BitVec.ofNat 16 (v / 65536)
  if isWide high then (high, low) else (low, high)

/-- The bytes of a table word as memory holds them, the first halfword at the lowest address. -/
def tableBytes (nbits w : Nat) : List Byte :=
  halfBytes (tableHalves nbits w).1 ++ halfBytes (tableHalves nbits w).2

/-- The instruction the decoder reads from a table word's bytes. -/
def decodeTableWord (nbits w : Nat) : Option Instr :=
  match decodeBytes (tableBytes nbits w) with
  | .ok (i, _) => some i
  | .error _ => none

end Sys2Proof
end

