-- ==== Sys2Proof/Machine/State.lean ====
section
/-! DEFINITION. The machine's state (10_state), the traps of 60_exceptions R291, the reasons a step stops, and the state
after reset. -/

namespace Sys2Proof.Machine

/-- The four flags (R29). -/
structure Flags where
  n : Bool
  z : Bool
  c : Bool
  v : Bool
  deriving DecidableEq, Repr

/-- Thread mode and Handler mode (R307, R320). -/
inductive Mode where
  | thread
  | handler
  deriving DecidableEq, Repr

/-- What a held processor waits in (R253, R275). -/
inductive Wait where
  | wfi
  | wfe
  deriving DecidableEq, Repr

/-- The size of one access: 1, 2 or 4 bytes (R51). -/
inductive Size where
  | byte
  | half
  | word
  deriving DecidableEq, Repr

/-- What an access is for (R58, R291 row 3). -/
inductive AccessKind where
  | read
  | write
  | fetch
  deriving DecidableEq, Repr

/-- One access that a device has seen, with the value that was read or written (R60). -/
structure DeviceAccess where
  kind : AccessKind
  addr : Word
  size : Size
  value : Word
  deriving DecidableEq, Repr

/-- What the environment can send at an instruction boundary (R41, R300, R301, R332). -/
inductive EnvEvent where
  | irq (n : Fin 32)
  | nmi
  | event
  | wakeUp
  | reset
  deriving DecidableEq, Repr

/-- The SysTick timer (R322). -/
structure SysTick where
  enable : Bool
  tickInt : Bool
  clkSource : Bool
  countFlag : Bool
  reload : BitVec 24
  current : BitVec 24
  deriving DecidableEq, Repr

/-- The system control space: SysTick, the interrupt controller, the system handlers (R305, R314, R322). -/
structure Scs where
  sysTick : SysTick
  irqEnable : BitVec 32
  irqPending : BitVec 32
  irqPriority : Vector (BitVec 2) 32
  nmiPending : Bool
  pendSvPending : Bool
  sysTickPending : Bool
  svcPriority : BitVec 2
  pendSvPriority : BitVec 2
  sysTickPriority : BitVec 2
  sleepOnExit : Bool
  sleepDeep : Bool
  sevOnPend : Bool
  resetRequest : Bool
  deriving DecidableEq, Repr

/-- Memory: a list of addresses and bytes (R43, R50), in the canonical form of `Memory.wf`. -/
abbrev Memory := List Host.Cell

/-- The state of the machine. `regs` holds R0 to R12; `x[13]` is `msp` or `psp` (R36), `x[14]` is `lr`, `x[15]` is `pc`
(R22). -/
structure State where
  regs : Vector Word 13
  lr : Word
  msp : Word
  psp : Word
  pc : Word
  flags : Flags
  ipsr : BitVec 6
  epsrT : Bool
  pm : Bool
  spsel : Bool
  mode : Mode
  eventReg : Bool
  waiting : Option Wait
  lockup : Bool
  active : List Nat
  scs : Scs
  mem : Memory
  dirty : List Nat
  deviceLog : List DeviceAccess
  env : List (List EnvEvent)
  wakeUp : Bool
  freeIdx : Nat
  cfg : Config
  deriving DecidableEq, Repr

/-- The six synchronous causes with their info (R291). -/
inductive Trap where
  | undefinedInstruction (h : Half) (h2 : Option Half)
  | unalignedAccess (addr : Word)
  | busFault (addr : Word) (kind : AccessKind)
  | invalidState (target : Word)
  | svCall (u8 : BitVec 8)
  | breakpoint (u8 : BitVec 8)
  deriving DecidableEq, Repr

/-- A step that ends the run with a trap (R292, `TRAP_MODEL = terminal` only): the cause's info, the reported pc and the
state at that point. Each is the outcome the spec gives, so each is safe. -/
inductive Fault where
  /-- Raised by decode: the halfword or pair is unassigned or not admitted (R95, R291 row 1). Safe. -/
  | undefinedInstruction (h : Half) (h2 : Option Half) (pc : Word) (final : State)
  /-- Raised by a load, a store, LDM or STM at a misaligned address (R56, R291 row 2). Safe. -/
  | unalignedAccess (addr : Word) (pc : Word) (final : State)
  /-- Raised by an access MemMap does not allow (R58, R291 row 3). Safe. -/
  | busFault (addr : Word) (kind : AccessKind) (pc : Word) (final : State)
  /-- Raised by a register branch to an even value, and by an instruction that begins with `T` = 0 (R28, R35, R291
  row 4). Safe. -/
  | invalidState (target : Word) (pc : Word) (final : State)
  /-- Raised by `SVC u8` (R255, R291 row 5); the pc is the return address. Safe. -/
  | svCall (u8 : BitVec 8) (pc : Word) (final : State)
  /-- Raised by `BKPT u8` (R254, R291 row 6). Safe. -/
  | breakpoint (u8 : BitVec 8) (pc : Word) (final : State)
  deriving DecidableEq, Repr

/-- A step the spec gives no meaning (`refuse`, R14). Each is safe: no claim covers the run that meets it. -/
inductive Refusal where
  /-- Raised by an arm of `exec` whose instruction has no meaning yet. Safe. -/
  | notModelled (mnemonic : String)
  /-- Raised by `Rd += Rm` with both `PC` (R123, U6). Safe. -/
  | addPcToPc
  /-- Raised by the 4-bit `Rn - Rm` with `PC` as an operand (R182, U7). Safe. -/
  | compareWithPc
  /-- Raised by the 4-bit `Rn - Rm` with two low registers (R182, U7). Safe. -/
  | compareTwoLow
  /-- Raised by `GOTO PC` (R195, U8). Safe. -/
  | gotoPc
  /-- Raised by `GOSUB PC` (R196, U8). Safe. -/
  | gosubPc
  /-- Raised by PUSH, POP, LDM and STM with an empty list (R210, R211, R240, R241, U11). Safe. -/
  | emptyList
  /-- Raised by STM with the base in the list and not the lowest register (R241, U13). Safe. -/
  | stmBaseNotLowest
  /-- Raised by an immediate right shift with field value 0 when `IMM_SHIFT0` has no value (R131, R228, U3). Safe. -/
  | immShift0Unset
  /-- Raised by `Rd = spec_reg` and `spec_reg = Rd` with `Rd` = SP or PC (R272, R273, U27). Safe. -/
  | specialWithSpOrPc
  /-- Raised by a reserved `SYSm` number (R40, R272, R273, U27). Safe. -/
  | reservedSpecial
  /-- Raised by the fetch of a halfword the program stored with no ISB since (R67, U21). Safe. -/
  | storedCodeFetch
  deriving DecidableEq, Repr

/-- The system control space after reset: nothing enabled, nothing pending (R332), every value the spec gives none for
at 0 (log 22). -/
def Scs.reset : Scs where
  sysTick := ⟨false, false, false, false, 0, 0⟩
  irqEnable := 0
  irqPending := 0
  irqPriority := Vector.replicate 32 0
  nmiPending := false
  pendSvPending := false
  sysTickPending := false
  svcPriority := 0
  pendSvPriority := 0
  sysTickPriority := 0
  sleepOnExit := false
  sleepDeep := false
  sevOnPend := false
  resetRequest := false

/-- DESIGN CHOICE (log 5): the map at reset. MemMap is open (R58). The private peripheral bus is the one range whose
bounds R58 gives; 0x40000000 to 0x5FFFFFFF is device; all else is plain and admits every access. -/
def resetMemMap : List Region :=
  [⟨0xE0000000, 0x100000, true, true, false, .system⟩,
   ⟨0x40000000, 0x20000000, true, true, false, .device⟩,
   ⟨0, 0x100000000, true, true, true, .plain⟩]

/-- DESIGN CHOICE (log 1 to 5): the parameters of rule R5 at reset. -/
def resetConfig : Config where
  immShift0 := .amount32
  cond14 := .always
  trapModel := .armv6m
  unknownGroup := .admitted
  memMap := resetMemMap

/-- The machine after reset: R332 on a memory with nothing listed, in the mode of R331. The registers that R44 leaves
unspecified have the values of log 7 and log 8. -/
def State.reset : State where
  regs := Vector.replicate 13 0
  lr := 0xFFFFFFFF
  msp := 0
  psp := 0
  pc := 0
  flags := ⟨false, false, false, false⟩
  ipsr := 0
  epsrT := true
  pm := false
  spsel := false
  mode := .thread
  eventReg := false
  waiting := none
  lockup := false
  active := []
  scs := Scs.reset
  mem := []
  dirty := []
  deviceLog := []
  env := []
  wakeUp := false
  freeIdx := 0
  cfg := resetConfig

end Sys2Proof.Machine
end

