-- ==== Sys2Proof/Machine/Flags.lean ====
section
/-! DEFINITION. Arithmetic with carry, shifts, flags and conditions: 00_scope R12, R15, R16, 10_state R29, 44_branch R191. -/

namespace Sys2Proof.Machine

/-- What an addition gives: the result, the carry out of bit 31, the signed overflow (R15). -/
structure Sum where
  value : Word
  carry : Bool
  overflow : Bool
  deriving DecidableEq, Repr

/-- R15 `AddWithCarry`: both sums as integers, the result narrowed at the end. -/
def addWithCarry (x y : Word) (cin : Bool) : Sum :=
  let usum : Nat := x.toNat + y.toNat + cin.toNat
  let ssum : Int := x.toInt + y.toInt + cin.toNat
  let result : Word := BitVec.ofNat 32 usum
  ⟨result, decide (2 ^ 32 ≤ usum), decide (result.toInt ≠ ssum)⟩

/-- R12 `SetNZ`. -/
def Flags.setNZ (f : Flags) (r : Word) : Flags := { f with n := r.msb, z := r == 0 }

/-- The four flags of an addition or subtraction (R29, R30). -/
def Flags.ofSum (r : Sum) : Flags := ⟨r.value.msb, r.value == 0, r.carry, r.overflow⟩

/-- R16 `LSL_C`: the result and the last bit shifted out. -/
def lslC (x : Word) (n : Nat) : Word × Bool :=
  if n ≤ 31 then (x <<< n, x.getLsbD (32 - n)) else if n = 32 then (0, x.getLsbD 0) else (0, false)

/-- R16 `LSR_C`. -/
def lsrC (x : Word) (n : Nat) : Word × Bool :=
  if n ≤ 31 then (x >>> n, x.getLsbD (n - 1)) else if n = 32 then (0, x.getLsbD 31) else (0, false)

/-- R16 `ASR_C`. -/
def asrC (x : Word) (n : Nat) : Word × Bool :=
  if n ≤ 31 then (x.sshiftRight n, x.getLsbD (n - 1))
  else (if x.getLsbD 31 then 0xFFFFFFFF else 0, x.getLsbD 31)

/-- R16 `ROR_C`. -/
def rorC (x : Word) (n : Nat) : Word × Bool :=
  let m := n % 32
  let result := if m = 0 then x else (x >>> m) ||| (x <<< (32 - m))
  (result, result.getLsbD 31)

/-- A shift or rotate by `n` with its flags: amount 0 calls no helper, keeps the value and does not write `C` (R16,
note ※3 of 41_arith, note ※4 of 46_special). -/
def shiftBy (op : Word → Nat → Word × Bool) (x : Word) (n : Nat) (f : Flags) : Word × Flags :=
  if n = 0 then (x, f.setNZ x) else ((op x n).1, { f.setNZ (op x n).1 with c := (op x n).2 })

/-- R191 `ConditionPassed`, by the number of the condition. `cond` = 15 is `SVC u8` and reaches no branch (R86). -/
def conditionPassed (cond : BitVec 4) (f : Flags) : Bool :=
  match cond with
  | 0#4 => f.z
  | 1#4 => !f.z
  | 2#4 => f.c
  | 3#4 => !f.c
  | 4#4 => f.n
  | 5#4 => !f.n
  | 6#4 => f.v
  | 7#4 => !f.v
  | 8#4 => !f.z && f.c
  | 9#4 => f.z || !f.c
  | 10#4 => f.n == f.v
  | 11#4 => f.n != f.v
  | 12#4 => !f.z && f.n == f.v
  | 13#4 => f.z || f.n != f.v
  | _ => true

/-- One bit of a word at a place. -/
def bitAt (b : Bool) (place : Nat) : Word := if b then 1#32 <<< place else 0

/-- The `APSR` part of a special register: `N Z C V` in bits [31:28] (R35). -/
def Flags.toWord (f : Flags) : Word := bitAt f.n 31 ||| bitAt f.z 30 ||| bitAt f.c 29 ||| bitAt f.v 28

/-- The flags of a word's bits [31:28] (R35, R273). -/
def Flags.ofWord (v : Word) : Flags := ⟨v.getLsbD 31, v.getLsbD 30, v.getLsbD 29, v.getLsbD 28⟩

end Sys2Proof.Machine
end

