-- ==== Sys2Proof/Machine/Operands.lean ====
section
/-! DEFINITION. Operands: registers, addresses, immediates, register lists and special registers (10_state R20 to R40,
20_memory R61, 30_encoding R83 to R85). -/

namespace Sys2Proof.Machine

/-! ### Bits of addresses -/

/-- A value with bits [1:0] cleared: `Align4` of R27 and what `SP` stores (R24). -/
def alignWord (v : Word) : Word := v &&& 0xFFFFFFFC#32

/-- A value with bit 0 cleared, as `pc` is written (R25, R28). -/
def clearBit0 (v : Word) : Word := v &&& 0xFFFFFFFE#32

/-- A value with bit 0 set, as `LR` is written by a call (R196, R197). -/
def setBit0 (v : Word) : Word := v ||| 1#32

/-! ### Registers -/

/-- R36: `SP` is `PSP` in Thread mode with `CONTROL.SPSEL` = 1, and `MSP` otherwise. -/
def State.usesPsp (s : State) : Bool := s.mode == .thread && s.spsel

/-- `SP`, the general register `x[13]` (R22, R36). -/
def State.sp (s : State) : Word := if s.usesPsp then s.psp else s.msp

/-- R24: a write to `x[13]` stores the value with bits [1:0] cleared. -/
def State.setSp (s : State) (v : Word) : State :=
  if s.usesPsp then { s with psp := alignWord v } else { s with msp := alignWord v }

/-- A low register, `x[0]` to `x[7]`. -/
def State.lo (s : State) (r : BitVec 3) : Word := s.regs[r.toNat]'(by omega)

/-- A write to a low register. -/
def State.setLo (s : State) (r : BitVec 3) (v : Word) : State := { s with regs := s.regs.set r.toNat v (by omega) }

/-- `rv(i)`, any of the sixteen registers as an operand: `PC` reads `pc + 4` (R11, R27). -/
def State.reg (s : State) (i : BitVec 4) : Word :=
  if h : i.toNat < 13 then s.regs[i.toNat]
  else if i = 13 then s.sp
  else if i = 14 then s.lr
  else s.pc + 4

/-- A write to any of the sixteen registers: `SP` clears bits [1:0] (R24), `PC` is a branch that ignores bit 0 (R28). -/
def State.setReg (s : State) (i : BitVec 4) (v : Word) : State :=
  if h : i.toNat < 13 then { s with regs := s.regs.set i.toNat v }
  else if i = 13 then s.setSp v
  else if i = 14 then { s with lr := v }
  else { s with pc := clearBit0 v }

/-- R26: the advance past an instruction of `n` bytes. -/
def State.advance (s : State) (n : Word) : State := { s with pc := s.pc + n }

/-- The end of an instruction that writes a low register and the flags and goes on to the next halfword. -/
def State.result (s : State) (rd : BitVec 3) (v : Word) (f : Flags) : State :=
  State.advance { s.setLo rd v with flags := f } 2

/-- The end of an instruction that writes only the flags. -/
def State.resultFlags (s : State) (f : Flags) : State := State.advance { s with flags := f } 2

/-! ### Addresses and immediates -/

/-- `x[Rn] + u5·scale` (R84, R150 to R152, R159 to R161). -/
def State.addrImm (s : State) (rn : BitVec 3) (u5 : BitVec 5) (scale : Word) : Word :=
  s.lo rn + u5.setWidth 32 * scale

/-- `x[Rn] + x[Rm]` (R154 to R158, R162 to R164). -/
def State.addrReg (s : State) (rn rm : BitVec 3) : Word := s.lo rn + s.lo rm

/-- `Align4(pc + 4) + 4·u8` (R27, R122, R153). -/
def State.addrPc (s : State) (u8 : BitVec 8) : Word := alignWord (s.pc + 4) + u8.setWidth 32 * 4

/-- `SP + 4·u8` (R214 to R216). -/
def State.addrSp (s : State) (u8 : BitVec 8) : Word := s.sp + u8.setWidth 32 * 4

/-- The destination of a branch with a signed offset in halfwords: `pc + 4 + 2·n` (R85). -/
def State.branchTarget (s : State) (offset : Word) : Word := s.pc + 4 + offset * 2

/-! ### Register lists -/

/-- The low registers of a list, from the smallest up: bit i stands for `R<i>` (R82). -/
def listedRegs (list : BitVec 8) : List (BitVec 3) :=
  [0, 1, 2, 3, 4, 5, 6, 7].filter fun r : BitVec 3 => list.getLsbD r.toNat

/-- The values of registers, in order. -/
def State.values (s : State) (rs : List (BitVec 3)) : List Word := rs.map s.lo

/-- Writes values to registers, in order (R211, R240). -/
def State.setValues (s : State) : List (BitVec 3) → List Word → State
  | r :: rs, v :: vs => (s.setLo r v).setValues rs vs
  | _, _ => s

/-- `4·n` as an address distance. -/
def wordsLong (n : Nat) : Word := BitVec.ofNat 32 (4 * n)

/-! ### Special registers -/

/-- R40: the numbers that name a special register; every other one is reserved. -/
def specialNumber (sysm : BitVec 8) : Bool :=
  [0, 1, 2, 3, 5, 6, 7, 8, 9, 16, 20].contains sysm

/-- The content `Rd = spec_reg` reads (R35 to R38, R272). The `EPSR` part always reads as 0, `nPRIV` is 0 (R38), and
`SPSEL` reads 0 in Handler mode (R38). -/
def State.readSpecial (s : State) (sysm : BitVec 8) : Word :=
  (if sysm = 0 ∨ sysm = 1 ∨ sysm = 2 ∨ sysm = 3 then s.flags.toWord else 0) |||
  (if sysm = 1 ∨ sysm = 3 ∨ sysm = 5 ∨ sysm = 7 then s.ipsr.setWidth 32 else 0) |||
  (if sysm = 8 then s.msp else 0) |||
  (if sysm = 9 then s.psp else 0) |||
  (if sysm = 16 then bitAt s.pm 0 else 0) |||
  (if sysm = 20 then bitAt (s.spsel && s.mode == .thread) 1 else 0)

/-- What `spec_reg = Rd` writes (R35 to R38, R273): the `IPSR` and `EPSR` parts ignore the write, `CONTROL` is written
in Thread mode only and `nPRIV` not at all. -/
def State.writeSpecial (s : State) (sysm : BitVec 8) (v : Word) : State :=
  if sysm = 0 ∨ sysm = 1 ∨ sysm = 2 ∨ sysm = 3 then { s with flags := Flags.ofWord v }
  else if sysm = 8 then { s with msp := alignWord v }
  else if sysm = 9 then { s with psp := alignWord v }
  else if sysm = 16 then { s with pm := v.getLsbD 0 }
  else if sysm = 20 then (if s.mode = .thread then { s with spsel := v.getLsbD 1 } else s)
  else s

/-- `xPSR` as exception entry stores it: flags, `T` in bit 24, bit 9 the alignment of the stack, exception number
(R35, R309). -/
def State.xpsr (s : State) (align : Bool) : Word :=
  s.flags.toWord ||| bitAt s.epsrT 24 ||| bitAt align 9 ||| s.ipsr.setWidth 32

end Sys2Proof.Machine
end

