-- ==== Sys2Proof/Machine/System.lean ====
section
/-! DEFINITION. The system control space: exception priorities, pending exceptions, SysTick and the registers of
60_exceptions R305, R308, R314, R322. -/

namespace Sys2Proof.Machine

/-! ### Priorities and pending exceptions -/

/-- R305: the priority of an exception, a lower number being a higher priority. A configurable one is the two bits of
its register times 64. A reserved number has the lowest. -/
def exceptionPriority (scs : Scs) (n : Nat) : Int :=
  if n = 1 then -3
  else if n = 2 then -2
  else if n = 3 then -1
  else if n = 11 then 64 * scs.svcPriority.toNat
  else if n = 14 then 64 * scs.pendSvPriority.toNat
  else if n = 15 then 64 * scs.sysTickPriority.toNat
  else if 16 ≤ n then 64 * ((scs.irqPriority[n - 16]?).getD 0).toNat
  else 256

/-- R308: the execution priority, that of the highest-priority active handler, or 0 with `PM` = 1 if that is higher, or
the lowest. -/
def State.execPriority (s : State) : Int :=
  (s.active.map (exceptionPriority s.scs)).foldl min (if s.pm then 0 else 256)

/-- The exceptions that are pending and enabled, in the order of their numbers (R305, R308). -/
def State.pendingExceptions (s : State) : List Nat :=
  (if s.scs.nmiPending then [2] else []) ++
  (if s.scs.pendSvPending then [14] else []) ++
  (if s.scs.sysTickPending then [15] else []) ++
  (if s.scs.irqPending &&& s.scs.irqEnable = 0 then []
   else ((List.range 32).filter fun k => (s.scs.irqPending &&& s.scs.irqEnable).getLsbD k).map (· + 16))

/-- The first of the highest priority in a list of exceptions (R305: equal priorities go by the lower number). -/
def highestPriority (scs : Scs) : List Nat → Option Nat
  | [] => none
  | n :: ns =>
    match highestPriority scs ns with
    | none => some n
    | some m => if exceptionPriority scs n ≤ exceptionPriority scs m then some n else some m

/-- R308: the pending exception that is taken at this boundary, if its priority is higher than the current one. -/
def State.exceptionToTake (s : State) : Option Nat :=
  match highestPriority s.scs s.pendingExceptions with
  | some n => if exceptionPriority s.scs n < s.execPriority then some n else none
  | none => none

/-- R301: what wakes `WFI` and `WFE` beside an input of the environment: an interrupt that would be taken if `PM` were
0. -/
def State.interruptWakes (s : State) : Bool := (State.exceptionToTake { s with pm := false }).isSome

/-- Every pending bit in one vector. -/
def Scs.pendingBits (scs : Scs) : BitVec 35 :=
  scs.irqPending ++ BitVec.ofBool scs.nmiPending ++ BitVec.ofBool scs.pendSvPending ++ BitVec.ofBool scs.sysTickPending

/-- A change of the pending bits; with `SCR.SEVONPEND` an interrupt that becomes pending is an event (R301). -/
def State.withPending (s : State) (scs : Scs) : State :=
  { s with
    scs := scs
    eventReg := s.eventReg || (s.scs.sevOnPend && scs.pendingBits &&& ~~~s.scs.pendingBits != 0) }

/-- External interrupts that become pending (R305, R322 `NVIC_ISPR`). -/
def State.pendIrqs (s : State) (mask : BitVec 32) : State :=
  s.withPending { s.scs with irqPending := s.scs.irqPending ||| mask }

/-- NMI, PendSV and SysTick that become pending (R314). -/
def State.pendSystem (s : State) (nmi pendSv sysTick : Bool) : State :=
  s.withPending
    { s.scs with
      nmiPending := s.scs.nmiPending || nmi
      pendSvPending := s.scs.pendSvPending || pendSv
      sysTickPending := s.scs.sysTickPending || sysTick }

/-- An exception that is taken is no longer pending (R308, R309). -/
def Scs.clearPending (scs : Scs) (n : Nat) : Scs :=
  if n = 2 then { scs with nmiPending := false }
  else if n = 14 then { scs with pendSvPending := false }
  else if n = 15 then { scs with sysTickPending := false }
  else if 16 ≤ n then { scs with irqPending := scs.irqPending &&& ~~~(1#32 <<< (n - 16)) }
  else scs

/-! ### SysTick -/

/-- R322: one clock of the 24-bit down counter; it reloads at 0. The Bool says that it has counted to 0 (log 21). -/
def SysTick.clock (t : SysTick) : SysTick × Bool :=
  if t.current = 0 then ({ t with current := t.reload }, false)
  else if t.current = 1 then ({ t with current := 0, countFlag := true }, true)
  else ({ t with current := t.current - 1 }, false)

/-- `n` clocks, and whether one of them counted to 0. -/
def SysTick.clocks : Nat → SysTick → SysTick × Bool
  | 0, t => (t, false)
  | n + 1, t => ((SysTick.clocks n t.clock.1).1, t.clock.2 || (SysTick.clocks n t.clock.1).2)

/-- The clocks between two instruction boundaries, a free number while the timer is enabled (log 21). With `TICKINT` a
count to 0 makes exception 15 pending (R322). -/
def State.sysTickRun (s : State) : State :=
  if s.scs.sysTick.enable then
    let r := SysTick.clocks (Config.sysTickClocks s.freeIdx) s.scs.sysTick
    State.pendSystem { s with freeIdx := s.freeIdx + 1, scs := { s.scs with sysTick := r.1 } } false false
      (r.2 && s.scs.sysTick.tickInt)
  else s

/-! ### The registers -/

/-- Four priorities as one of `NVIC_IPR0` to `IPR7`: one byte per interrupt, bits [7:6] used (R322). -/
def priorityWord (p : Vector (BitVec 2) 32) (k : Nat) : Word :=
  (p[4 * k + 3]?).getD 0 ++ 0#6 ++ (p[4 * k + 2]?).getD 0 ++ 0#6 ++ (p[4 * k + 1]?).getD 0 ++ 0#6 ++
    (p[4 * k]?).getD 0 ++ 0#6

/-- A write to one of `NVIC_IPR0` to `IPR7` (R322). -/
def setPriorityWord (p : Vector (BitVec 2) 32) (k : Nat) (v : Word) : Vector (BitVec 2) 32 :=
  (((p.setIfInBounds (4 * k) (v.extractLsb' 6 2)).setIfInBounds (4 * k + 1) (v.extractLsb' 14 2)).setIfInBounds
    (4 * k + 2) (v.extractLsb' 22 2)).setIfInBounds (4 * k + 3) (v.extractLsb' 30 2)

/-- The number of an `NVIC_IPR` register, of its address. -/
def priorityIndex (addr : Word) : Nat := (addr.toNat - 0xE000E400) / 4

/-- A word read of a register of R322; `none` where it gives none at the address. Bits with no stated content are free
(log 22). Reading SYST_CSR clears COUNTFLAG (PRESUMED, log 21). -/
def State.readSystem (s : State) (addr : Word) : Option (Word × State) :=
  match addr with
  | 0xE000E010#32 =>
    some (bitAt s.scs.sysTick.enable 0 ||| bitAt s.scs.sysTick.tickInt 1 ||| bitAt s.scs.sysTick.clkSource 2 |||
        bitAt s.scs.sysTick.countFlag 16,
      { s with scs := { s.scs with sysTick := { s.scs.sysTick with countFlag := false } } })
  | 0xE000E014#32 => some (s.scs.sysTick.reload.setWidth 32, s)
  | 0xE000E018#32 => some (s.scs.sysTick.current.setWidth 32, s)
  | 0xE000E01C#32 => some (Config.systCalib, s)
  | 0xE000E100#32 => some (s.scs.irqEnable, s)
  | 0xE000E180#32 => some (s.scs.irqEnable, s)
  | 0xE000E200#32 => some (s.scs.irqPending, s)
  | 0xE000E280#32 => some (s.scs.irqPending, s)
  | 0xE000ED00#32 => some (Config.cpuid, s)
  | 0xE000ED04#32 =>
    some (bitAt s.scs.nmiPending 31 ||| bitAt s.scs.pendSvPending 28 ||| bitAt s.scs.sysTickPending 26 |||
        (Config.freeWord s.freeIdx &&& 0x6BFFFFFF#32),
      { s with freeIdx := s.freeIdx + 1 })
  | 0xE000ED0C#32 => some (Config.freeWord s.freeIdx, { s with freeIdx := s.freeIdx + 1 })
  | 0xE000ED10#32 =>
    some (bitAt s.scs.sleepOnExit 1 ||| bitAt s.scs.sleepDeep 2 ||| bitAt s.scs.sevOnPend 4, s)
  | 0xE000ED14#32 => some (0x00000208#32, s)
  | 0xE000ED1C#32 => some (s.scs.svcPriority ++ 0#30, s)
  | 0xE000ED20#32 => some (s.scs.sysTickPriority ++ 0#6 ++ s.scs.pendSvPriority ++ 0#22, s)
  | _ =>
    if 0xE000E400#32 ≤ addr ∧ addr ≤ 0xE000E41C#32 then
      some (priorityWord s.scs.irqPriority (priorityIndex addr), s)
    else none

/-- A word write to a register of R322; `none` where it gives none at the address. SYST_CALIB, CPUID and CCR ignore it.
AIRCR needs the key 0x05FA. The bits of ICSR other than 31, 28 and 26 and of AIRCR's low half other than 2 are ignored:
DESIGN CHOICE (log 22). -/
def State.writeSystem (s : State) (addr v : Word) : Option State :=
  match addr with
  | 0xE000E010#32 =>
    some { s with
      scs := { s.scs with
        sysTick := { s.scs.sysTick with
          enable := v.getLsbD 0, tickInt := v.getLsbD 1, clkSource := v.getLsbD 2 } } }
  | 0xE000E014#32 =>
    some { s with scs := { s.scs with sysTick := { s.scs.sysTick with reload := v.setWidth 24 } } }
  | 0xE000E018#32 =>
    some { s with scs := { s.scs with sysTick := { s.scs.sysTick with current := 0, countFlag := false } } }
  | 0xE000E01C#32 => some s
  | 0xE000E100#32 => some { s with scs := { s.scs with irqEnable := s.scs.irqEnable ||| v } }
  | 0xE000E180#32 => some { s with scs := { s.scs with irqEnable := s.scs.irqEnable &&& ~~~v } }
  | 0xE000E200#32 => some (s.pendIrqs v)
  | 0xE000E280#32 => some { s with scs := { s.scs with irqPending := s.scs.irqPending &&& ~~~v } }
  | 0xE000ED00#32 => some s
  | 0xE000ED04#32 => some (s.pendSystem (v.getLsbD 31) (v.getLsbD 28) (v.getLsbD 26))
  | 0xE000ED0C#32 =>
    if v.extractLsb' 16 16 = 0x05FA#16 then
      some { s with scs := { s.scs with resetRequest := s.scs.resetRequest || v.getLsbD 2 } }
    else some s
  | 0xE000ED10#32 =>
    some { s with
      scs := { s.scs with sleepOnExit := v.getLsbD 1, sleepDeep := v.getLsbD 2, sevOnPend := v.getLsbD 4 } }
  | 0xE000ED14#32 => some s
  | 0xE000ED1C#32 => some { s with scs := { s.scs with svcPriority := v.extractLsb' 30 2 } }
  | 0xE000ED20#32 =>
    some { s with
      scs := { s.scs with sysTickPriority := v.extractLsb' 30 2, pendSvPriority := v.extractLsb' 22 2 } }
  | _ =>
    if 0xE000E400#32 ≤ addr ∧ addr ≤ 0xE000E41C#32 then
      some { s with scs := { s.scs with irqPriority := setPriorityWord s.scs.irqPriority (priorityIndex addr) v } }
    else none

end Sys2Proof.Machine
end

