-- ==== Sys2Proof/Machine/Ops.lean ====
section
/-! DEFINITION. The shared operations: memory, the accesses of 20_memory, multi-register transfers, taking a trap
(60_exceptions R292, R306, R309), returning from an exception (R311), waiting, reset and instruction fetch. -/

namespace Sys2Proof.Machine

/-! ### Memory -/

/-- What an address that no entry lists reads as: DESIGN CHOICE 0 (log 6). -/
def unlistedByte : Byte := 0

/-- The byte at an address. -/
def Memory.read : Memory → Nat → Byte
  | [], _ => unlistedByte
  | (k, b) :: m, a => if k = a then b else Memory.read m a

/-- Puts an entry before the first one of a higher address. -/
def Memory.place : Memory → Nat → Byte → Memory
  | [], a, b => [(a, b)]
  | (k, c) :: m, a, b => if a < k then (a, b) :: (k, c) :: m else (k, c) :: Memory.place m a b

/-- Stores one byte and keeps the canonical form: the address is listed only with a value that an unlisted one has not. -/
def Memory.write (m : Memory) (a : Nat) (b : Byte) : Memory :=
  if b = unlistedByte then m.filter fun e => e.1 != a else Memory.place (m.filter fun e => e.1 != a) a b

/-- The canonical form from an address up: addresses strictly rising below 2^32, and no entry equal to what an unlisted
address reads as. -/
def Memory.wfFrom : Nat → Memory → Bool
  | _, [] => true
  | lo, (k, b) :: m => decide (lo ≤ k) && decide (k < 2 ^ 32) && b != unlistedByte && Memory.wfFrom (k + 1) m

/-- The canonical form of memory. -/
def Memory.wf (m : Memory) : Bool := Memory.wfFrom 0 m

/-- R54: the `n`-byte value at an address, little-endian, addresses modulo 2^32. -/
def Memory.load (m : Memory) : Word → Nat → Word
  | _, 0 => 0
  | a, n + 1 => (m.read a.toNat).setWidth 32 ||| (Memory.load m (a + 1) n <<< 8)

/-- R55: the low `n` bytes of a value stored at an address, little-endian. -/
def Memory.store (m : Memory) : Word → Nat → Word → Memory
  | _, 0, _ => m
  | a, n + 1, v => Memory.store (m.write a.toNat (v.setWidth 8)) (a + 1) n (v >>> 8)

/-! ### MemMap -/

/-- The number of bytes of an access (R51). -/
def Size.bytes : Size → Nat
  | .byte => 1
  | .half => 2
  | .word => 4

/-- The low bytes of a word that an access of a size moves. -/
def Size.mask : Size → Word
  | .byte => 0xFF#32
  | .half => 0xFFFF#32
  | .word => 0xFFFFFFFF#32

/-- Whether a region admits an access (R58). A fetch is a read that needs the address to be executable too (R57). -/
def admitsAccess (r : Region) : AccessKind → Bool
  | .read => r.readable
  | .write => r.writable
  | .fetch => r.readable && r.executable

/-- What MemMap says of one byte address for a kind of access; `none` where it does not allow it (R58). The first
region that holds the address decides. -/
def byteClass (c : Config) (kind : AccessKind) (a : Nat) : Option RegionKind :=
  match c.memMap.find? fun r => decide (r.base ≤ a) && decide (a < r.base + r.size) with
  | some r => if admitsAccess r kind then some r.kind else none
  | none => none

/-- What MemMap says of the `n + 1` bytes from an address: admitted only if every byte is. With bytes of different kinds
a device sees the access (log 5), and its plain bytes are memory's all the same (R54, R55). -/
def bytesClass (c : Config) (kind : AccessKind) : Word → Nat → Option RegionKind
  | a, 0 => byteClass c kind a.toNat
  | a, n + 1 =>
    match byteClass c kind a.toNat, bytesClass c kind (a + 1) n with
    | some x, some y => if x = y then some x else some .device
    | _, _ => none

/-- What MemMap says of an access (R58). -/
def State.accessClass (s : State) (kind : AccessKind) (addr : Word) (size : Size) : Option RegionKind :=
  bytesClass s.cfg kind addr (size.bytes - 1)

/-- R56: an access needs an address that is a multiple of its size. -/
def aligned (addr : Word) (size : Size) : Bool := addr.toNat % size.bytes == 0

/-! ### Accesses -/

/-- What an operation on the state gives: a value and the next state, or a trap and the state at that point. -/
inductive Access (α : Type) where
  | ok (v : α) (s : State)
  | trap (t : Trap) (s : State)
  deriving DecidableEq, Repr

/-- R67: the byte addresses that the program has stored to, strictly rising. -/
def markByte (a : Nat) : List Nat → List Nat
  | [] => [a]
  | x :: xs => if a < x then a :: x :: xs else if a = x then x :: xs else x :: markByte a xs

/-- Marks the `n` bytes from an address as stored to (R67). -/
def markBytes : Word → Nat → List Nat → List Nat
  | _, 0, l => l
  | a, n + 1, l => markBytes (a + 1) n (markByte a.toNat l)

/-- R54, R60: the `n`-byte value at an address, with the byte of memory where it is plain and the byte of a given value
elsewhere. -/
def loadPlainBytes (c : Config) (kind : AccessKind) (m : Memory) : Word → Nat → Word → Word
  | _, 0, _ => 0
  | a, n + 1, v =>
    (if byteClass c kind a.toNat = some .plain then m.read a.toNat else v.setWidth 8).setWidth 32 |||
      (loadPlainBytes c kind m (a + 1) n (v >>> 8) <<< 8)

/-- R60: a device's read gives any value; the device has seen the access (log 15). A byte that is plain memory reads as
memory has it (R54, log 5). -/
def State.readDevice (s : State) (kind : AccessKind) (addr : Word) (size : Size) : Access Word :=
  let v := loadPlainBytes s.cfg kind s.mem addr size.bytes (Config.freeWord s.freeIdx)
  .ok v { s with freeIdx := s.freeIdx + 1, deviceLog := s.deviceLog ++ [⟨kind, addr, size, v⟩] }

/-- R67: the bytes of a store are marked, whatever they are. -/
def State.markStored (s : State) (addr : Word) (size : Size) : State :=
  { s with dirty := markBytes addr size.bytes s.dirty }

/-- The state after a store to plain memory (R55, R67). -/
def State.storePlain (s : State) (addr : Word) (size : Size) (v : Word) : State :=
  { s.markStored addr size with mem := s.mem.store addr size.bytes v }

/-- R55: the low `n` bytes of a value stored at an address, those at bytes that are plain memory. -/
def storePlainBytes (c : Config) (m : Memory) : Word → Nat → Word → Memory
  | _, 0, _ => m
  | a, n + 1, v =>
    storePlainBytes c (if byteClass c .write a.toNat = some .plain then m.write a.toNat (v.setWidth 8) else m) (a + 1) n
      (v >>> 8)

/-- The state after a store whose bytes are memory where they are plain (R55, R67). -/
def State.storeShared (s : State) (addr : Word) (size : Size) (v : Word) : State :=
  { s.markStored addr size with mem := storePlainBytes s.cfg s.mem addr size.bytes v }

/-- R60: a device has seen the write. A byte that is plain memory is stored (R55, log 5). -/
def State.writeDevice (s : State) (addr : Word) (size : Size) (v : Word) : State :=
  { s.storeShared addr size v with
    deviceLog := s.deviceLog ++ [⟨.write, addr, size, v &&& size.mask⟩] }

/-- R13, R54, R56, R57, R58, R60: `MemRead`. An access to the system control space that names no register of R322, or
is not a word, is treated as a device's (U19, log 34). -/
def memRead (kind : AccessKind) (addr : Word) (size : Size) (s : State) : Access Word :=
  if aligned addr size then
    match s.accessClass kind addr size with
    | none => .trap (.busFault addr kind) s
    | some .plain => .ok (s.mem.load addr size.bytes) s
    | some .device => s.readDevice kind addr size
    | some .system =>
      match (if size = .word then s.readSystem addr else none) with
      | some (v, s') => .ok v s'
      | none => s.readDevice kind addr size
  else .trap (.unalignedAccess addr) s

/-- R13, R55, R56, R58, R60, R67: `MemWrite`. -/
def memWrite (addr : Word) (size : Size) (v : Word) (s : State) : Access Unit :=
  if aligned addr size then
    match s.accessClass .write addr size with
    | none => .trap (.busFault addr .write) s
    | some .plain => .ok () (s.storePlain addr size v)
    | some .device => .ok () (s.writeDevice addr size v)
    | some .system =>
      match (if size = .word then s.writeSystem addr v else none) with
      | some s' => .ok () (s'.markStored addr size)
      | none => .ok () (s.writeDevice addr size v)
  else .trap (.unalignedAccess addr) s

/-- `n` words from ascending addresses (R59, R211, R240). -/
def readWords : Word → Nat → State → Access (List Word)
  | _, 0, s => .ok [] s
  | a, n + 1, s =>
    match memRead .read a .word s with
    | .trap t s' => .trap t s'
    | .ok v s' =>
      match readWords (a + 4) n s' with
      | .trap t s'' => .trap t s''
      | .ok vs s'' => .ok (v :: vs) s''

/-- Words stored to ascending addresses (R59, R241). -/
def writeWords : Word → List Word → State → Access Unit
  | _, [], s => .ok () s
  | a, v :: vs, s =>
    match memWrite a .word v s with
    | .trap t s' => .trap t s'
    | .ok _ s' => writeWords (a + 4) vs s'

/-! ### Free values -/

/-- Registers that hold no value: each gets a free one (U16, log 13). -/
def State.freeRegs (s : State) : List (BitVec 3) → State
  | [] => s
  | r :: rs => State.freeRegs { s.setLo r (Config.freeWord s.freeIdx) with freeIdx := s.freeIdx + 1 } rs

/-- Words whose content is unknown: each of their plain bytes gets a free one (R293, U16, log 13). -/
def State.freeSlots (s : State) : List (Word × Word) → State
  | [] => s
  | (a, _) :: slots =>
    State.freeSlots
      { s.storeShared a .word (Config.freeWord s.freeIdx) with freeIdx := s.freeIdx + 1 } slots

/-- A free order of a list (U15, log 14): each place is chosen among what is left. The first number is how many places
to fill. -/
def freeOrder {α : Type} : Nat → Nat → List α → List α
  | 0, _, l => l
  | n + 1, idx, l =>
    match l with
    | [] => []
    | x :: xs =>
      let j := Config.freeChoice idx % (x :: xs).length
      (x :: xs).getD j x :: freeOrder n (idx + 1) ((x :: xs).eraseIdx j)

/-! ### Taking an exception -/

/-- R309: `EXC_RETURN`, by the mode and the stack that were in use. -/
def State.excReturn (s : State) : Word :=
  if s.mode = .handler then 0xFFFFFFF1 else if s.usesPsp then 0xFFFFFFFD else 0xFFFFFFF9

/-- R309: the address of the frame, 32 bytes below the stack pointer in use, aligned to 8. -/
def State.frameAddr (s : State) : Word := (s.sp - 0x20) &&& 0xFFFFFFFB#32

/-- R309: the eight words of the frame, from its lowest address up. -/
def State.frameWords (s : State) (ret : Word) : List Word :=
  [s.lo 0, s.lo 1, s.lo 2, s.lo 3, s.reg 12, s.lr, ret, s.xpsr (s.sp.getLsbD 2)]

/-- R309: the state that handles exception `n`, after the frame is stored and the vector read. `s0` is the state before
the entry. -/
def State.enterHandler (s s0 : State) (n : Nat) (vector : Word) : State :=
  { s with
    msp := if s0.usesPsp then s.msp else s0.frameAddr
    psp := if s0.usesPsp then s0.frameAddr else s.psp
    lr := s0.excReturn
    mode := .handler
    ipsr := BitVec.ofNat 6 n
    spsel := false
    pc := clearBit0 vector
    epsrT := vector.getLsbD 0
    eventReg := true
    active := n :: s.active
    scs := s.scs.clearPending n
    waiting := none
    lockup := false
    dirty := [] }

/-- R309: exception entry for exception `n` with a return address; a trap where the frame or the vector cannot be
accessed. -/
def exceptionEntry (n : Nat) (ret : Word) (s : State) : Access Unit :=
  match writeWords s.frameAddr (s.frameWords ret) s with
  | .trap t s1 => .trap t s1
  | .ok _ s1 =>
    match memRead .read (BitVec.ofNat 32 (4 * n)) .word s1 with
    | .trap t s2 => .trap t s2
    | .ok vector s2 => .ok () (s2.enterHandler s n vector)

/-- The state after an entry that failed: the exception is no longer pending, whatever follows; everything but what the
entry's accesses did is as before it. DESIGN CHOICE (log 18). -/
def State.entryFailed (s1 : State) (n : Nat) : State := { s1 with scs := s1.scs.clearPending n }

/-- R306, R313: an exception taken. A bus fault in the entry becomes a HardFault (exception 3), and in the entry of a
HardFault, or with the execution priority at −1 or −2, Lockup (log 18). Such a Lockup keeps the mode, `IPSR` and the
active exceptions from before the entry, so the execution priority too: DESIGN CHOICE (log 32). -/
def takeException (n : Nat) (ret : Word) (s : State) : State :=
  match exceptionEntry n ret s with
  | .ok _ s' => s'
  | .trap _ s1 =>
    if n = 3 ∨ s.execPriority ≤ -1 then { s1.entryFailed n with lockup := true }
    else
      match exceptionEntry 3 ret (s1.entryFailed n) with
      | .ok _ s' => s'
      | .trap _ s2 => { s2 with lockup := true }

/-- R306: a fault becomes a HardFault, or Lockup with the execution priority at −1 or −2. -/
def hardFault (ret : Word) (s : State) : State :=
  if s.execPriority ≤ -1 then { s with lockup := true } else takeException 3 ret s

/-- The pc a trap reports (R291): the return address for `SVCall`, else the instruction's. -/
def Trap.reportedPc (t : Trap) (pc : Word) : Word :=
  match t with
  | .svCall _ => pc + 2
  | _ => pc

/-- R292: the outcome `Trapped(cause, info, reported pc)` with the state at that point. -/
def Trap.toFault (t : Trap) (s : State) : Fault :=
  match t with
  | .undefinedInstruction h h2 => .undefinedInstruction h h2 (t.reportedPc s.pc) s
  | .unalignedAccess a => .unalignedAccess a (t.reportedPc s.pc) s
  | .busFault a k => .busFault a k (t.reportedPc s.pc) s
  | .invalidState v => .invalidState v (t.reportedPc s.pc) s
  | .svCall u => .svCall u (t.reportedPc s.pc) s
  | .breakpoint u => .breakpoint u (t.reportedPc s.pc) s

/-- R302, R306, R308, R309: a synchronous trap taken. `SVCall` is exception 11, or a HardFault where its priority does
not allow it (log 19); every other cause is a HardFault, with the destination as return address for `InvalidState`
(log 20). No debugger is attached (log 25). -/
def takeTrap (t : Trap) (s : State) : State :=
  match t with
  | .svCall _ =>
    if exceptionPriority s.scs 11 < s.execPriority then takeException 11 (s.pc + 2) s else hardFault s.pc s
  | .invalidState v => hardFault (clearBit0 v) s
  | _ => hardFault s.pc s

/-- R14, R292: `raise`. With `TRAP_MODEL = terminal` the run ends; with `armv6m` the exception is taken. -/
def raise (t : Trap) (s : State) : Host.Outcome State Fault Refusal :=
  match s.cfg.trapModel with
  | .terminal => .fault (t.toFault s)
  | .armv6m => .next (takeTrap t s)

/-- R332: an instruction that would begin with `T` = 0 faults. In Thread mode, where `T` = 0 is left by a reset only, the
HardFault is entered and from there the processor is in Lockup (log 20). The fault comes before every check of R294. -/
def raiseThumbClear (s : State) : Host.Outcome State Fault Refusal :=
  match raise (.invalidState s.pc) s with
  | .next t => .next (if s.mode = .thread then { t with lockup := true } else t)
  | o => o

/-- The rest of an instruction after an access, or the trap raised. -/
def Access.andThen {α : Type} (a : Access α) (k : α → State → Host.Outcome State Fault Refusal) :
    Host.Outcome State Fault Refusal :=
  match a with
  | .ok v s => k v s
  | .trap t s => raise t s

/-! ### Returning from an exception -/

/-- R311: whether a value loaded into `pc` by `GOTO Rm`, `RET` or `POP` is an exception return: in Handler mode, bits
[31:28] all 1, whatever bit 0 is. With `TRAP_MODEL = terminal` such a value has no special meaning (R296). -/
def State.isExceptionReturn (s : State) (v : Word) : Bool :=
  s.cfg.trapModel == .armv6m && s.mode == .handler && v.extractLsb' 28 4 == 0xF#4

/-- R311: the legal values of `EXC_RETURN`. -/
def legalExcReturn (v : Word) : Bool := v == 0xFFFFFFF1 || v == 0xFFFFFFF9 || v == 0xFFFFFFFD

/-- R311: a stack pointer after a return: the frame left behind, bit 2 as the stacked bit 9 says. -/
def stackAfterReturn (frame psr : Word) : Word :=
  ((frame + 0x20) &&& 0xFFFFFFFB#32) ||| bitAt (psr.getLsbD 9) 2

/-- R311: the state after a legal return with the eight words of the frame. -/
def State.leaveHandler (s : State) (exc frame r0 r1 r2 r3 r12 lr pc psr : Word) : State :=
  { (((((s.setLo 0 r0).setLo 1 r1).setLo 2 r2).setLo 3 r3).setReg 12 r12) with
    lr := lr
    pc := clearBit0 pc
    flags := Flags.ofWord psr
    epsrT := psr.getLsbD 24
    ipsr := psr.extractLsb' 0 6
    msp := if exc = 0xFFFFFFFD#32 then s.msp else stackAfterReturn frame psr
    psp := if exc = 0xFFFFFFFD#32 then stackAfterReturn frame psr else s.psp
    mode := if exc = 0xFFFFFFF1#32 then .handler else .thread
    spsel := exc == 0xFFFFFFFD#32
    eventReg := true
    active := s.active.erase s.ipsr.toNat
    dirty := [] }

/-- R311, R313: exception return with `exc` as `EXC_RETURN`. An illegal value, a frame that cannot be read and a frame
whose stacked `T` is 0 become a HardFault at the branching instruction (log 17). -/
def exceptionReturn (exc : Word) (s : State) : State :=
  if legalExcReturn exc then
    let frame := if exc = 0xFFFFFFFD#32 then s.psp else s.msp
    match readWords frame 8 s with
    | .ok [r0, r1, r2, r3, r12, lr, pc, psr] s1 =>
      if psr.getLsbD 24 then s1.leaveHandler exc frame r0 r1 r2 r3 r12 lr pc psr else hardFault s.pc s1
    | .ok _ s1 => hardFault s.pc s1
    | .trap _ s1 => hardFault s.pc s1
  else hardFault s.pc s

/-- R28, R195, R198, R311: a value given to `pc` by a register branch: an exception return, or a target whose bit 0 must
be 1. The return is tested first, so an even value with bits [31:28] = 1111 is a failed return and not `InvalidState`:
DESIGN CHOICE, R294 does not place the test (log 17). -/
def branchTo (v : Word) (s : State) : Host.Outcome State Fault Refusal :=
  if s.isExceptionReturn v then .next (exceptionReturn v s)
  else if v.getLsbD 0 then .next { s with pc := clearBit0 v }
  else raise (.invalidState v) s

/-! ### Waiting -/

/-- R253, R275, R301: one try of a wait. A wake-up of the environment, an interrupt or, for `WFE`, an event ends the
wait, and the processor goes on after the instruction; else it holds. The event register keeps the event that ends a
hold (R41, R275). -/
def State.tryWait (s : State) (w : Wait) : State :=
  if s.wakeUp || s.interruptWakes || (w == .wfe && s.eventReg) then { s with waiting := none, pc := s.pc + 2 }
  else { s with waiting := some w }

/-! ### Reset -/

/-- The low registers and R8 to R12 with free values (R332: unknown). -/
def freeRegisterFile (idx : Nat) : Vector Word 13 := Vector.ofFn fun i : Fin 13 => Config.freeWord (idx + i.val)

/-- R332: the registers of a reset at run time, before the vector table is read: `R0` to `R12`, the flags and `PSP`
unknown, no pending state; memory and what the devices saw are kept (log 23). -/
def State.resetRegisters (s : State) : State :=
  { s with
    regs := freeRegisterFile s.freeIdx
    lr := 0xFFFFFFFF
    psp := alignWord (Config.freeWord (s.freeIdx + 13))
    flags := Flags.ofWord (Config.freeWord (s.freeIdx + 14))
    freeIdx := s.freeIdx + 15
    ipsr := 0
    pm := false
    spsel := false
    mode := .thread
    eventReg := false
    waiting := none
    lockup := false
    active := []
    scs := Scs.reset
    dirty := []
    wakeUp := false }

/-- R332: reset at run time. `MSP` is the word at 0, `pc` the word at 4 with bit 0 cleared, `T` its bit 0. A vector
table that cannot be read is Lockup, with `MSP`, `pc` and `T` as they were before the reset: DESIGN CHOICE (log 23). -/
def resetSequence (s : State) : State :=
  match readWords 0 2 s.resetRegisters with
  | .ok [sp, entry] s1 => { s1 with msp := alignWord sp, pc := clearBit0 entry, epsrT := entry.getLsbD 0 }
  | .ok _ s1 => { s1 with lockup := true }
  | .trap _ s1 => { s1 with lockup := true }

/-! ### Instruction boundaries and fetch -/

/-- One input of the environment (R41, R300, R301). -/
def State.receive (s : State) : EnvEvent → State
  | .irq n => s.pendIrqs (1#32 <<< n.val)
  | .nmi => s.pendSystem true false false
  | .event => { s with eventReg := true }
  | .wakeUp => { s with wakeUp := true }
  | .reset => { s with scs := { s.scs with resetRequest := true } }

/-- The start of a step: the inputs that arrive at this boundary, and SysTick's clocks. -/
def State.boundary (s : State) : State :=
  match s.env with
  | [] => State.sysTickRun { s with wakeUp := false }
  | es :: rest => State.sysTickRun (es.foldl State.receive { s with env := rest, wakeUp := false })

/-- R67: whether the halfword at an address has been stored by the program since the last `ISB` or trap. -/
def State.storedCode (s : State) (addr : Word) : Bool :=
  s.dirty.contains addr.toNat || s.dirty.contains (addr + 1).toNat

/-- What a fetch gives: the halfwords of the instruction and the state, a trap, or the refusal of R67. -/
inductive Fetched where
  | ok (h : Half) (h2 : Option Half) (s : State)
  | trap (t : Trap) (s : State)
  | refused (r : Refusal)
  deriving DecidableEq, Repr

/-- R57, R81, R294 steps 1 and 2: the halfword at `pc`, and the second where the first begins 11110. R67's refusal of a
stored halfword comes right after the `BusFault` check of that halfword, so before the second halfword is fetched and
before decode: DESIGN CHOICE, R294 does not place it (log 16). -/
def fetchInstr (s : State) : Fetched :=
  match memRead .fetch s.pc .half s with
  | .trap t s1 => .trap t s1
  | .ok w1 s1 =>
    if s.storedCode s.pc then .refused .storedCodeFetch
    else if isWide (w1.setWidth 16) then
      match memRead .fetch (s.pc + 2) .half s1 with
      | .trap t s2 => .trap t s2
      | .ok w2 s2 =>
        if s.storedCode (s.pc + 2) then .refused .storedCodeFetch
        else .ok (w1.setWidth 16) (some (w2.setWidth 16)) s2
    else .ok (w1.setWidth 16) none s1

/-- R294 step 3: the instruction of the halfwords, if the table has one and the parameters allow it. -/
def State.instrOf (s : State) (h : Half) (h2 : Option Half) : Option Instr :=
  match decode h h2 with
  | .ok i => if s.cfg.admits i then some i else none
  | .error _ => none

/-- Bytes stored from an address on, whatever MemMap says: a program placed from outside (R67, R331). -/
def State.placeBytes (s : State) : Word → List Byte → State
  | _, [] => s
  | a, b :: bs =>
    State.placeBytes { s with mem := s.mem.write a.toNat b, dirty := s.dirty.filter (· != a.toNat) } (a + 1) bs

end Sys2Proof.Machine
end

