-- ==== Sys2Proof/Machine/Arith.lean ====
section
/-! DEFINITION. Arithmetic, shift and logic instructions: 41_arith R120 to R137. -/

namespace Sys2Proof.Machine

/-- R120 `Rd += u8`. -/
def execAddImm8 (rd : BitVec 3) (u8 : BitVec 8) (s : State) : Host.Outcome State Fault Refusal :=
  let r := addWithCarry (s.lo rd) (u8.setWidth 32) false
  .next (s.result rd r.value (Flags.ofSum r))

/-- R121 `Rd -= u8`. -/
def execSubImm8 (rd : BitVec 3) (u8 : BitVec 8) (s : State) : Host.Outcome State Fault Refusal :=
  let r := addWithCarry (s.lo rd) (~~~(u8.setWidth 32)) true
  .next (s.result rd r.value (Flags.ofSum r))

/-- R122 `Rd = PC + u8`. -/
def execAdr (rd : BitVec 3) (u8 : BitVec 8) (s : State) : Host.Outcome State Fault Refusal :=
  .next ((s.setLo rd (s.addrPc u8)).advance 2)

/-- R123 `Rd += Rm`, any of the sixteen, no flags; a branch when `Rd` is `PC`. Both `PC` is refused. -/
def execAddHi (rd rm : BitVec 4) (s : State) : Host.Outcome State Fault Refusal :=
  if rd = 15 ∧ rm = 15 then .refused .addPcToPc
  else if rd = 15 then .next (s.setReg 15 (s.reg 15 + s.reg rm))
  else .next ((s.setReg rd (s.reg rd + s.reg rm)).advance 2)

/-- R124 `Rd = Rn + u3`. -/
def execAddImm3 (rd rn : BitVec 3) (u3 : BitVec 3) (s : State) : Host.Outcome State Fault Refusal :=
  let r := addWithCarry (s.lo rn) (u3.setWidth 32) false
  .next (s.result rd r.value (Flags.ofSum r))

/-- R125 `Rd = Rn - u3`. -/
def execSubImm3 (rd rn : BitVec 3) (u3 : BitVec 3) (s : State) : Host.Outcome State Fault Refusal :=
  let r := addWithCarry (s.lo rn) (~~~(u3.setWidth 32)) true
  .next (s.result rd r.value (Flags.ofSum r))

/-- R126 `Rd = Rn + Rm`. -/
def execAddReg (rd rn rm : BitVec 3) (s : State) : Host.Outcome State Fault Refusal :=
  let r := addWithCarry (s.lo rn) (s.lo rm) false
  .next (s.result rd r.value (Flags.ofSum r))

/-- R127 `Rd = Rn - Rm`. -/
def execSubReg (rd rn rm : BitVec 3) (s : State) : Host.Outcome State Fault Refusal :=
  let r := addWithCarry (s.lo rn) (~~~s.lo rm) true
  .next (s.result rd r.value (Flags.ofSum r))

/-- R128 `Rd = -Rm`. -/
def execNeg (rd rm : BitVec 3) (s : State) : Host.Outcome State Fault Refusal :=
  let r := addWithCarry (~~~s.lo rm) 0 true
  .next (s.result rd r.value (Flags.ofSum r))

/-- R129 `Rd *= Rm`. -/
def execMul (rd rm : BitVec 3) (s : State) : Host.Outcome State Fault Refusal :=
  let r := s.lo rd * s.lo rm
  .next (s.result rd r (s.flags.setNZ r))

/-- R130 `Rd = Rm << u5`. -/
def execLslImm (rd rm : BitVec 3) (u5 : BitVec 5) (s : State) : Host.Outcome State Fault Refusal :=
  let r := shiftBy lslC (s.lo rm) u5.toNat s.flags
  .next (s.result rd r.1 r.2)

/-- An immediate right shift (R131, R228): the field is the amount 1 to 31, and the field value 0 means what
`IMM_SHIFT0` says. -/
def immRightShift (op : Word → Nat → Word × Bool) (rd rm : BitVec 3) (u5 : BitVec 5) (s : State) :
    Host.Outcome State Fault Refusal :=
  if u5 = 0 then
    match s.cfg.immShift0 with
    | .amount0 => let r := shiftBy op (s.lo rm) 0 s.flags; .next (s.result rd r.1 r.2)
    | .amount32 => let r := shiftBy op (s.lo rm) 32 s.flags; .next (s.result rd r.1 r.2)
    | .unset => .refused .immShift0Unset
  else let r := shiftBy op (s.lo rm) u5.toNat s.flags; .next (s.result rd r.1 r.2)

/-- R131 `Rd = Rm >> u5`. -/
def execLsrImm (rd rm : BitVec 3) (u5 : BitVec 5) (s : State) : Host.Outcome State Fault Refusal :=
  immRightShift lsrC rd rm u5 s

/-- R132 `Rd <<= Rm`: the amount is the low byte of `Rm`. -/
def execLslReg (rd rm : BitVec 3) (s : State) : Host.Outcome State Fault Refusal :=
  let r := shiftBy lslC (s.lo rd) ((s.lo rm).extractLsb' 0 8).toNat s.flags
  .next (s.result rd r.1 r.2)

/-- R133 `Rd >>= Rm`: the amount is the low byte of `Rm`. -/
def execLsrReg (rd rm : BitVec 3) (s : State) : Host.Outcome State Fault Refusal :=
  let r := shiftBy lsrC (s.lo rd) ((s.lo rm).extractLsb' 0 8).toNat s.flags
  .next (s.result rd r.1 r.2)

/-- R134 `Rd = ~Rm`. -/
def execMvn (rd rm : BitVec 3) (s : State) : Host.Outcome State Fault Refusal :=
  let r := ~~~s.lo rm
  .next (s.result rd r (s.flags.setNZ r))

/-- R135 `Rd &= Rm`. -/
def execAndReg (rd rm : BitVec 3) (s : State) : Host.Outcome State Fault Refusal :=
  let r := s.lo rd &&& s.lo rm
  .next (s.result rd r (s.flags.setNZ r))

/-- R136 `Rd |= Rm`. -/
def execOrrReg (rd rm : BitVec 3) (s : State) : Host.Outcome State Fault Refusal :=
  let r := s.lo rd ||| s.lo rm
  .next (s.result rd r (s.flags.setNZ r))

/-- R137 `Rd ^= Rm`. -/
def execEorReg (rd rm : BitVec 3) (s : State) : Host.Outcome State Fault Refusal :=
  let r := s.lo rd ^^^ s.lo rm
  .next (s.result rd r (s.flags.setNZ r))

end Sys2Proof.Machine
end

