-- ==== Sys2Proof/Machine/Assign.lean ====
section
/-! DEFINITION. Assignment instructions: 40_assign R110, R111. -/

namespace Sys2Proof.Machine

/-- R110 `Rd = u8`. -/
def execMovImm (rd : BitVec 3) (u8 : BitVec 8) (s : State) : Host.Outcome State Fault Refusal :=
  .next (s.result rd (u8.setWidth 32) (s.flags.setNZ (u8.setWidth 32)))

/-- R111 `Rd = Rm`, any of the sixteen; a branch when `Rd` is `PC`. -/
def execMovReg (rd rm : BitVec 4) (s : State) : Host.Outcome State Fault Refusal :=
  if rd = 15 then .next (s.setReg 15 (s.reg rm)) else .next ((s.setReg rd (s.reg rm)).advance 2)

end Sys2Proof.Machine
end

