-- ==== Sys2Proof/Machine/Branch.lean ====
section
/-! DEFINITION. Branch, call and return instructions: 44_branch R190 to R198. -/

namespace Sys2Proof.Machine

/-- A branch on a condition (R192): taken to `pc + 4 + 2·n8`, else on to the next halfword. -/
def branchIf (cond : BitVec 4) (n8 : BitVec 8) (s : State) : Host.Outcome State Fault Refusal :=
  if conditionPassed cond s.flags then .next { s with pc := s.branchTarget (n8.signExtend 32) }
  else .next (s.advance 2)

/-- R193 `IF 0 GOTO n8`. -/
def execIfZero (n8 : BitVec 8) (s : State) : Host.Outcome State Fault Refusal := branchIf 0 n8 s

/-- R194 `IF !0 GOTO n8`. -/
def execIfNonZero (n8 : BitVec 8) (s : State) : Host.Outcome State Fault Refusal := branchIf 1 n8 s

/-- R192 `IF cond GOTO n8`. -/
def execIfCond (cond : BitVec 4) (n8 : BitVec 8) (s : State) : Host.Outcome State Fault Refusal :=
  branchIf cond n8 s

/-- R190 `GOTO n11`. -/
def execGotoImm (n11 : BitVec 11) (s : State) : Host.Outcome State Fault Refusal :=
  .next { s with pc := s.branchTarget (n11.signExtend 32) }

/-- R195 `GOTO Rm`. -/
def execGotoReg (rm : BitVec 4) (s : State) : Host.Outcome State Fault Refusal :=
  if rm = 15 then .refused .gotoPc else branchTo (s.reg rm) s

/-- R196 `GOSUB Rm`: the target is read before `LR` is written, and `LR` is not written on a trap. -/
def execGosubReg (rm : BitVec 4) (s : State) : Host.Outcome State Fault Refusal :=
  if rm = 15 then .refused .gosubPc
  else
    let t := s.reg rm
    if t.getLsbD 0 then .next { s with lr := setBit0 (s.pc + 2), pc := clearBit0 t }
    else raise (.invalidState t) s

/-- R197 `GOSUB n22`. -/
def execGosubImm (n22 : BitVec 22) (s : State) : Host.Outcome State Fault Refusal :=
  .next { s with lr := setBit0 (s.pc + 4), pc := s.branchTarget (n22.signExtend 32) }

/-- R198 `RET`. -/
def execRet (s : State) : Host.Outcome State Fault Refusal := branchTo s.lr s

end Sys2Proof.Machine
end

