-- ==== Sys2Proof/Machine/Compare.lean ====
section
/-! DEFINITION. Compare and test instructions: 43_compare R180 to R184. -/

namespace Sys2Proof.Machine

/-- R180 `Rn - u8`. -/
def execCmpImm (rn : BitVec 3) (u8 : BitVec 8) (s : State) : Host.Outcome State Fault Refusal :=
  .next (s.resultFlags (Flags.ofSum (addWithCarry (s.lo rn) (~~~(u8.setWidth 32)) true)))

/-- R182 `Rn - Rm`, 4-bit fields; with `PC`, and with two low registers, refused. -/
def execCmpHi (rn rm : BitVec 4) (s : State) : Host.Outcome State Fault Refusal :=
  if rn = 15 ∨ rm = 15 then .refused .compareWithPc
  else if rn.toNat < 8 ∧ rm.toNat < 8 then .refused .compareTwoLow
  else .next (s.resultFlags (Flags.ofSum (addWithCarry (s.reg rn) (~~~s.reg rm) true)))

/-- R181 `Rn - Rm`, 3-bit fields. -/
def execCmpReg (rn rm : BitVec 3) (s : State) : Host.Outcome State Fault Refusal :=
  .next (s.resultFlags (Flags.ofSum (addWithCarry (s.lo rn) (~~~s.lo rm) true)))

/-- R183 `Rn + Rm`. -/
def execCmn (rn rm : BitVec 3) (s : State) : Host.Outcome State Fault Refusal :=
  .next (s.resultFlags (Flags.ofSum (addWithCarry (s.lo rn) (s.lo rm) false)))

/-- R184 `Rn & Rm`. -/
def execTst (rn rm : BitVec 3) (s : State) : Host.Outcome State Fault Refusal :=
  .next (s.resultFlags (s.flags.setNZ (s.lo rn &&& s.lo rm)))

end Sys2Proof.Machine
end

