-- ==== Sys2Proof/Machine/MemAccess.lean ====
section
/-! DEFINITION. Load and store instructions: 42_memaccess R150 to R164. -/

namespace Sys2Proof.Machine

/-- A load into a low register (R52, R150 to R158, R215): the address is computed before, the value is extended. -/
def loadTo (rd : BitVec 3) (size : Size) (extend : Word → Word) (addr : Word) (s : State) :
    Host.Outcome State Fault Refusal :=
  (memRead .read addr size s).andThen fun v s' => .next ((s'.setLo rd (extend v)).advance 2)

/-- A store of a low register's low bytes (R52, R159 to R164, R216). -/
def storeFrom (rd : BitVec 3) (size : Size) (addr : Word) (s : State) : Host.Outcome State Fault Refusal :=
  (memWrite addr size (s.lo rd) s).andThen fun _ s' => .next (s'.advance 2)

/-- `sext_32` of a byte (R10, R155). -/
def signExtendByte (v : Word) : Word := (v.setWidth 8).signExtend 32

/-- `sext_32` of a halfword (R10, R157). -/
def signExtendHalf (v : Word) : Word := (v.setWidth 16).signExtend 32

/-- R150 `Rd = [Rn + u5]`. -/
def execLdrbImm (rd rn : BitVec 3) (u5 : BitVec 5) (s : State) : Host.Outcome State Fault Refusal :=
  loadTo rd .byte id (s.addrImm rn u5 1) s

/-- R151 `Rd = [Rn + u5]W`. -/
def execLdrhImm (rd rn : BitVec 3) (u5 : BitVec 5) (s : State) : Host.Outcome State Fault Refusal :=
  loadTo rd .half id (s.addrImm rn u5 2) s

/-- R152 `Rd = [Rn + u5]L`. -/
def execLdrImm (rd rn : BitVec 3) (u5 : BitVec 5) (s : State) : Host.Outcome State Fault Refusal :=
  loadTo rd .word id (s.addrImm rn u5 4) s

/-- R153 `Rd = [PC + u8]L`. -/
def execLdrPc (rd : BitVec 3) (u8 : BitVec 8) (s : State) : Host.Outcome State Fault Refusal :=
  loadTo rd .word id (s.addrPc u8) s

/-- R154 `Rd = [Rn + Rm]`. -/
def execLdrbReg (rd rn rm : BitVec 3) (s : State) : Host.Outcome State Fault Refusal :=
  loadTo rd .byte id (s.addrReg rn rm) s

/-- R155 `Rd = [Rn + Rm]C`. -/
def execLdrsbReg (rd rn rm : BitVec 3) (s : State) : Host.Outcome State Fault Refusal :=
  loadTo rd .byte signExtendByte (s.addrReg rn rm) s

/-- R156 `Rd = [Rn + Rm]W`. -/
def execLdrhReg (rd rn rm : BitVec 3) (s : State) : Host.Outcome State Fault Refusal :=
  loadTo rd .half id (s.addrReg rn rm) s

/-- R157 `Rd = [Rn + Rm]S`. -/
def execLdrshReg (rd rn rm : BitVec 3) (s : State) : Host.Outcome State Fault Refusal :=
  loadTo rd .half signExtendHalf (s.addrReg rn rm) s

/-- R158 `Rd = [Rn + Rm]L`. -/
def execLdrReg (rd rn rm : BitVec 3) (s : State) : Host.Outcome State Fault Refusal :=
  loadTo rd .word id (s.addrReg rn rm) s

/-- R159 `[Rn + u5] = Rd`. -/
def execStrbImm (rd rn : BitVec 3) (u5 : BitVec 5) (s : State) : Host.Outcome State Fault Refusal :=
  storeFrom rd .byte (s.addrImm rn u5 1) s

/-- R160 `[Rn + u5]W = Rd`. -/
def execStrhImm (rd rn : BitVec 3) (u5 : BitVec 5) (s : State) : Host.Outcome State Fault Refusal :=
  storeFrom rd .half (s.addrImm rn u5 2) s

/-- R161 `[Rn + u5]L = Rd`. -/
def execStrImm (rd rn : BitVec 3) (u5 : BitVec 5) (s : State) : Host.Outcome State Fault Refusal :=
  storeFrom rd .word (s.addrImm rn u5 4) s

/-- R162 `[Rn + Rm] = Rd`. -/
def execStrbReg (rd rn rm : BitVec 3) (s : State) : Host.Outcome State Fault Refusal :=
  storeFrom rd .byte (s.addrReg rn rm) s

/-- R163 `[Rn + Rm]W = Rd`. -/
def execStrhReg (rd rn rm : BitVec 3) (s : State) : Host.Outcome State Fault Refusal :=
  storeFrom rd .half (s.addrReg rn rm) s

/-- R164 `[Rn + Rm]L = Rd`. -/
def execStrReg (rd rn rm : BitVec 3) (s : State) : Host.Outcome State Fault Refusal :=
  storeFrom rd .word (s.addrReg rn rm) s

end Sys2Proof.Machine
end

