-- ==== Sys2Proof/Machine/Misc.lean ====
section
/-! DEFINITION. Other instructions: 48_misc R250 to R255. -/

namespace Sys2Proof.Machine

/-- R250 `NOP`: the bits of `R0 = R0 << 0`, so `N` and `Z` are written from `x[0]` (90_conflicts C1). -/
def execNop (s : State) : Host.Outcome State Fault Refusal :=
  let r := shiftBy lslC (s.lo 0) 0 s.flags
  .next (s.result 0 r.1 r.2)

/-- R251 `CPSID`. -/
def execCpsid (s : State) : Host.Outcome State Fault Refusal := .next (State.advance { s with pm := true } 2)

/-- R252 `CPSIE`. -/
def execCpsie (s : State) : Host.Outcome State Fault Refusal := .next (State.advance { s with pm := false } 2)

/-- R253 `WFI`. -/
def execWfi (s : State) : Host.Outcome State Fault Refusal := .next (s.tryWait .wfi)

/-- R254 `BKPT u8`. -/
def execBkpt (u8 : BitVec 8) (s : State) : Host.Outcome State Fault Refusal := raise (.breakpoint u8) s

/-- R255 `SVC u8`. -/
def execSvc (u8 : BitVec 8) (s : State) : Host.Outcome State Fault Refusal := raise (.svCall u8) s

end Sys2Proof.Machine
end

