-- ==== Sys2Proof/Machine/MultiMem.lean ====
section
/-! DEFINITION. Multiple-register memory access: 47_multimem R240, R241. -/

namespace Sys2Proof.Machine

/-- R240 `LDM`: every word is read, then the registers are written; the base advances unless it is listed. On a trap the
base keeps its value and the other listed registers hold any value (R293, U16). -/
def execLdm (rn : BitVec 3) (list : BitVec 8) (s : State) : Host.Outcome State Fault Refusal :=
  if list = 0 then .refused .emptyList
  else
    let rs := listedRegs list
    match readWords (s.lo rn) rs.length s with
    | .trap t s1 => raise t (s1.freeRegs (rs.filter (· ≠ rn)))
    | .ok vs s1 =>
      let s2 := s1.setValues rs vs
      if list.getLsbD rn.toNat then .next (s2.advance 2)
      else .next ((s2.setLo rn (s.lo rn + wordsLong rs.length)).advance 2)

/-- Whether the base is in the list and some lower register is too (R241). -/
def baseNotLowest (rn : BitVec 3) (list : BitVec 8) : Bool :=
  list.getLsbD rn.toNat && (listedRegs list).any fun r => decide (r.toNat < rn.toNat)

/-- R241 `STM`: the words are stored ascending, then the base advances. On a trap the base keeps its value and the
stores already made stay. -/
def execStm (rn : BitVec 3) (list : BitVec 8) (s : State) : Host.Outcome State Fault Refusal :=
  if list = 0 then .refused .emptyList
  else if baseNotLowest rn list then .refused .stmBaseNotLowest
  else
    let rs := listedRegs list
    (writeWords (s.lo rn) (s.values rs) s).andThen fun _ s1 =>
      .next ((s1.setLo rn (s.lo rn + wordsLong rs.length)).advance 2)

end Sys2Proof.Machine
end

