-- ==== Sys2Proof/Machine/Special.lean ====
section
/-! DEFINITION. Special operations: 46_special R225 to R234. -/

namespace Sys2Proof.Machine

/-- R225: the four bytes of a word reversed. -/
def reverseBytes (v : Word) : Word :=
  v.extractLsb' 0 8 ++ v.extractLsb' 8 8 ++ v.extractLsb' 16 8 ++ v.extractLsb' 24 8

/-- R226: the two bytes of each halfword exchanged. -/
def reverseHalves (v : Word) : Word :=
  v.extractLsb' 16 8 ++ v.extractLsb' 24 8 ++ v.extractLsb' 0 8 ++ v.extractLsb' 8 8

/-- R227: the bytes of the low halfword exchanged, then sign-extended. -/
def reverseSigned (v : Word) : Word := BitVec.signExtend 32 (v.extractLsb' 0 8 ++ v.extractLsb' 8 8)

/-- R225 `Rd = REV(Rm)`. -/
def execRev (rd rm : BitVec 3) (s : State) : Host.Outcome State Fault Refusal :=
  .next ((s.setLo rd (reverseBytes (s.lo rm))).advance 2)

/-- R226 `Rd = REV16(Rm)`. -/
def execRev16 (rd rm : BitVec 3) (s : State) : Host.Outcome State Fault Refusal :=
  .next ((s.setLo rd (reverseHalves (s.lo rm))).advance 2)

/-- R227 `Rd = REVSH(Rm)`. -/
def execRevsh (rd rm : BitVec 3) (s : State) : Host.Outcome State Fault Refusal :=
  .next ((s.setLo rd (reverseSigned (s.lo rm))).advance 2)

/-- R228 `Rd = ASR(Rm, u5)`. -/
def execAsrImm (rd rm : BitVec 3) (u5 : BitVec 5) (s : State) : Host.Outcome State Fault Refusal :=
  immRightShift asrC rd rm u5 s

/-- R229 `ASR Rd, Rm`: the amount is the low byte of `Rm`. -/
def execAsrReg (rd rm : BitVec 3) (s : State) : Host.Outcome State Fault Refusal :=
  let r := shiftBy asrC (s.lo rd) ((s.lo rm).extractLsb' 0 8).toNat s.flags
  .next (s.result rd r.1 r.2)

/-- R230 `BIC Rd, Rm`. -/
def execBic (rd rm : BitVec 3) (s : State) : Host.Outcome State Fault Refusal :=
  let r := s.lo rd &&& ~~~s.lo rm
  .next (s.result rd r (s.flags.setNZ r))

/-- R231 `ROR Rd, Rm`: the amount is the low byte of `Rm`. -/
def execRor (rd rm : BitVec 3) (s : State) : Host.Outcome State Fault Refusal :=
  let r := shiftBy rorC (s.lo rd) ((s.lo rm).extractLsb' 0 8).toNat s.flags
  .next (s.result rd r.1 r.2)

/-- R233 `ADC Rd, Rm`. -/
def execAdc (rd rm : BitVec 3) (s : State) : Host.Outcome State Fault Refusal :=
  let r := addWithCarry (s.lo rd) (s.lo rm) s.flags.c
  .next (s.result rd r.value (Flags.ofSum r))

/-- R234 `SBC Rd, Rm`. -/
def execSbc (rd rm : BitVec 3) (s : State) : Host.Outcome State Fault Refusal :=
  let r := addWithCarry (s.lo rd) (~~~s.lo rm) s.flags.c
  .next (s.result rd r.value (Flags.ofSum r))

end Sys2Proof.Machine
end

