-- ==== Sys2Proof/Machine/Stack.lean ====
section
/-! DEFINITION. Stack instructions: 45_stack R210 to R216. -/

namespace Sys2Proof.Machine

/-- The words a `PUSH` stores, ascending (R210): the listed low registers, then `LR` where bit 8 of the list is set. -/
def State.pushWords (s : State) (list : BitVec 9) : List Word :=
  s.values (listedRegs (list.setWidth 8)) ++ (if list.getLsbD 8 then [s.lr] else [])

/-- Words with their addresses, ascending from an address. -/
def slotsFrom : Word → List Word → List (Word × Word)
  | _, [] => []
  | a, v :: vs => (a, v) :: slotsFrom (a + 4) vs

/-- The addresses and words of a `PUSH`, from its lowest address up. -/
def State.pushSlots (s : State) (list : BitVec 9) : List (Word × Word) :=
  slotsFrom (s.sp - wordsLong (s.pushWords list).length) (s.pushWords list)

/-- Stores in the order of a list of slots. -/
def writeSlots : List (Word × Word) → State → Access Unit
  | [], s => .ok () s
  | (a, v) :: slots, s =>
    match memWrite a .word v s with
    | .trap t s' => .trap t s'
    | .ok _ s' => writeSlots slots s'

/-- Whether every slot of a `PUSH` is plain memory that admits the store. -/
def State.slotsPlain (s : State) (slots : List (Word × Word)) : Bool :=
  slots.all fun slot => s.accessClass .write slot.1 .word == some .plain

/-- The order of a `PUSH`'s stores. It is open (R59, R210, U15), and of consequence only where some slot is not plain
memory: there it is a free order (log 14). -/
def State.pushOrder (s : State) (slots : List (Word × Word)) : List (Word × Word) :=
  if s.slotsPlain slots then slots else freeOrder slots.length s.freeIdx slots

/-- The state in which a `PUSH` stores: a free order has used one free value for each slot. -/
def State.pushStart (s : State) (slots : List (Word × Word)) : State :=
  if s.slotsPlain slots then s else { s with freeIdx := s.freeIdx + slots.length }

/-- R210 `PUSH`: `SP` is written once, after every store. On a trap `SP` keeps its value and the slots hold any value
(R293, U16). -/
def execPush (list : BitVec 9) (s : State) : Host.Outcome State Fault Refusal :=
  if list = 0 then .refused .emptyList
  else
    let slots := s.pushSlots list
    match writeSlots (s.pushOrder slots) (s.pushStart slots) with
    | .ok _ s' => .next ((s'.setSp (s.sp - wordsLong slots.length)).advance 2)
    | .trap t s' => raise t (s'.freeSlots slots)

/-- How many words a `POP` loads. -/
def popCount (list : BitVec 9) : Nat :=
  (listedRegs (list.setWidth 8)).length + (if list.getLsbD 8 then 1 else 0)

/-- R211 `POP`: every word is read, then the registers and `SP` are written, then `PC`. On a trap `SP` keeps its value
and the listed registers hold any value (R293, U16). Whether the popped value is an exception return is tested before its
bit 0, so in Handler mode an even value with bits [31:28] = 1111 is a failed return, with `SP` moved, and not
`InvalidState`: DESIGN CHOICE, R211 and R294 do not place the test (log 17). -/
def execPop (list : BitVec 9) (s : State) : Host.Outcome State Fault Refusal :=
  if list = 0 then .refused .emptyList
  else
    let rs := listedRegs (list.setWidth 8)
    match readWords s.sp (popCount list) s with
    | .trap t s1 => raise t (s1.freeRegs rs)
    | .ok vs s1 =>
      let done := (s1.setValues rs vs).setSp (s.sp + wordsLong (popCount list))
      if list.getLsbD 8 then
        let v := vs.getD rs.length 0
        if s.isExceptionReturn v then .next (exceptionReturn v done)
        else if v.getLsbD 0 then .next { done with pc := clearBit0 v }
        else raise (.invalidState v) (s1.freeRegs rs)
      else .next (done.advance 2)

/-- R212 `SP += u7`. -/
def execSpAdd (u7 : BitVec 7) (s : State) : Host.Outcome State Fault Refusal :=
  .next ((s.setSp (s.sp + u7.setWidth 32 * 4)).advance 2)

/-- R213 `SP -= u7`. -/
def execSpSub (u7 : BitVec 7) (s : State) : Host.Outcome State Fault Refusal :=
  .next ((s.setSp (s.sp - u7.setWidth 32 * 4)).advance 2)

/-- R214 `Rd = SP + u8`. -/
def execAddSp (rd : BitVec 3) (u8 : BitVec 8) (s : State) : Host.Outcome State Fault Refusal :=
  .next ((s.setLo rd (s.addrSp u8)).advance 2)

/-- R215 `Rd = [SP + u8]L`. -/
def execLdrSp (rd : BitVec 3) (u8 : BitVec 8) (s : State) : Host.Outcome State Fault Refusal :=
  loadTo rd .word id (s.addrSp u8) s

/-- R216 `[SP + u8]L = Rd`. -/
def execStrSp (rd : BitVec 3) (u8 : BitVec 8) (s : State) : Host.Outcome State Fault Refusal :=
  storeFrom rd .word (s.addrSp u8) s

end Sys2Proof.Machine
end

