-- ==== Sys2Proof/Machine/Unknown.lean ====
section
/-! DEFINITION. The instructions of 49_unknown_encoding R265 to R276, reached where `UNKNOWN_GROUP` admits them (R97). -/

namespace Sys2Proof.Machine

/-- R265 `Rd = SXTB(Rm)`. -/
def execSxtb (rd rm : BitVec 3) (s : State) : Host.Outcome State Fault Refusal :=
  .next ((s.setLo rd (signExtendByte (s.lo rm))).advance 2)

/-- R266 `Rd = SXTH(Rm)`. -/
def execSxth (rd rm : BitVec 3) (s : State) : Host.Outcome State Fault Refusal :=
  .next ((s.setLo rd (signExtendHalf (s.lo rm))).advance 2)

/-- R267 `Rd = UXTB(Rm)`. -/
def execUxtb (rd rm : BitVec 3) (s : State) : Host.Outcome State Fault Refusal :=
  .next ((s.setLo rd (BitVec.setWidth 32 ((s.lo rm).extractLsb' 0 8))).advance 2)

/-- R268 `Rd = UXTH(Rm)`. -/
def execUxth (rd rm : BitVec 3) (s : State) : Host.Outcome State Fault Refusal :=
  .next ((s.setLo rd (BitVec.setWidth 32 ((s.lo rm).extractLsb' 0 16))).advance 2)

/-- R269 `DMB`: every earlier access is complete, so there is nothing to order (R63, R65). -/
def execDmb (_option : BitVec 4) (s : State) : Host.Outcome State Fault Refusal := .next (s.advance 4)

/-- R270 `DSB`. -/
def execDsb (_option : BitVec 4) (s : State) : Host.Outcome State Fault Refusal := .next (s.advance 4)

/-- R271 `ISB`: halfwords stored before it may be fetched after it (R67). -/
def execIsb (_option : BitVec 4) (s : State) : Host.Outcome State Fault Refusal :=
  .next (State.advance { s with dirty := [] } 4)

/-- R272 `Rd = spec_reg`. -/
def execMrs (rd : BitVec 4) (sysm : BitVec 8) (s : State) : Host.Outcome State Fault Refusal :=
  if rd = 13 ∨ rd = 15 then .refused .specialWithSpOrPc
  else if specialNumber sysm then .next ((s.setReg rd (s.readSpecial sysm)).advance 4)
  else .refused .reservedSpecial

/-- R273 `spec_reg = Rd`. -/
def execMsr (rn : BitVec 4) (sysm : BitVec 8) (s : State) : Host.Outcome State Fault Refusal :=
  if rn = 13 ∨ rn = 15 then .refused .specialWithSpOrPc
  else if specialNumber sysm then .next ((s.writeSpecial sysm (s.reg rn)).advance 4)
  else .refused .reservedSpecial

/-- R274 `SEV`: sets the event register; the one core of the machine is the only receiver (R323). -/
def execSev (s : State) : Host.Outcome State Fault Refusal := .next (State.advance { s with eventReg := true } 2)

/-- R275 `WFE`: with the event register set it clears it and does not wait. -/
def execWfe (s : State) : Host.Outcome State Fault Refusal :=
  if s.eventReg then .next { s with waiting := none, eventReg := false, pc := s.pc + 2 }
  else .next (s.tryWait .wfe)

/-- R276 `YIELD`. -/
def execYield (s : State) : Host.Outcome State Fault Refusal := .next (s.advance 2)

end Sys2Proof.Machine
end

