-- ==== Sys2Proof/Machine/Dispatch.lean ====
section
/-! DEFINITION. One arm per instruction, each one call of its meaning. -/

namespace Sys2Proof.Machine

def exec (i : Instr) (s : State) : Host.Outcome State Fault Refusal :=
  match i with
  | .movImm rd u8 => Sys2Proof.Machine.execMovImm rd u8 s
  | .movReg rd rm => Sys2Proof.Machine.execMovReg rd rm s
  | .addImm8 rd u8 => Sys2Proof.Machine.execAddImm8 rd u8 s
  | .subImm8 rd u8 => Sys2Proof.Machine.execSubImm8 rd u8 s
  | .adr rd u8 => Sys2Proof.Machine.execAdr rd u8 s
  | .addHi rd rm => Sys2Proof.Machine.execAddHi rd rm s
  | .addImm3 rd rn u3 => Sys2Proof.Machine.execAddImm3 rd rn u3 s
  | .subImm3 rd rn u3 => Sys2Proof.Machine.execSubImm3 rd rn u3 s
  | .addReg rd rn rm => Sys2Proof.Machine.execAddReg rd rn rm s
  | .subReg rd rn rm => Sys2Proof.Machine.execSubReg rd rn rm s
  | .neg rd rm => Sys2Proof.Machine.execNeg rd rm s
  | .mul rd rm => Sys2Proof.Machine.execMul rd rm s
  | .lslImm rd rm u5 => Sys2Proof.Machine.execLslImm rd rm u5 s
  | .lsrImm rd rm u5 => Sys2Proof.Machine.execLsrImm rd rm u5 s
  | .lslReg rd rm => Sys2Proof.Machine.execLslReg rd rm s
  | .lsrReg rd rm => Sys2Proof.Machine.execLsrReg rd rm s
  | .mvn rd rm => Sys2Proof.Machine.execMvn rd rm s
  | .andReg rd rm => Sys2Proof.Machine.execAndReg rd rm s
  | .orrReg rd rm => Sys2Proof.Machine.execOrrReg rd rm s
  | .eorReg rd rm => Sys2Proof.Machine.execEorReg rd rm s
  | .ldrbImm rd rn u5 => Sys2Proof.Machine.execLdrbImm rd rn u5 s
  | .ldrhImm rd rn u5 => Sys2Proof.Machine.execLdrhImm rd rn u5 s
  | .ldrImm rd rn u5 => Sys2Proof.Machine.execLdrImm rd rn u5 s
  | .ldrPc rd u8 => Sys2Proof.Machine.execLdrPc rd u8 s
  | .ldrbReg rd rn rm => Sys2Proof.Machine.execLdrbReg rd rn rm s
  | .ldrsbReg rd rn rm => Sys2Proof.Machine.execLdrsbReg rd rn rm s
  | .ldrhReg rd rn rm => Sys2Proof.Machine.execLdrhReg rd rn rm s
  | .ldrshReg rd rn rm => Sys2Proof.Machine.execLdrshReg rd rn rm s
  | .ldrReg rd rn rm => Sys2Proof.Machine.execLdrReg rd rn rm s
  | .strbImm rd rn u5 => Sys2Proof.Machine.execStrbImm rd rn u5 s
  | .strhImm rd rn u5 => Sys2Proof.Machine.execStrhImm rd rn u5 s
  | .strImm rd rn u5 => Sys2Proof.Machine.execStrImm rd rn u5 s
  | .strbReg rd rn rm => Sys2Proof.Machine.execStrbReg rd rn rm s
  | .strhReg rd rn rm => Sys2Proof.Machine.execStrhReg rd rn rm s
  | .strReg rd rn rm => Sys2Proof.Machine.execStrReg rd rn rm s
  | .cmpImm rn u8 => Sys2Proof.Machine.execCmpImm rn u8 s
  | .cmpHi rn rm => Sys2Proof.Machine.execCmpHi rn rm s
  | .cmpReg rn rm => Sys2Proof.Machine.execCmpReg rn rm s
  | .cmn rn rm => Sys2Proof.Machine.execCmn rn rm s
  | .tst rn rm => Sys2Proof.Machine.execTst rn rm s
  | .ifZero n8 => Sys2Proof.Machine.execIfZero n8 s
  | .ifNonZero n8 => Sys2Proof.Machine.execIfNonZero n8 s
  | .ifCond cond n8 => Sys2Proof.Machine.execIfCond cond n8 s
  | .gotoImm n11 => Sys2Proof.Machine.execGotoImm n11 s
  | .gotoReg rm => Sys2Proof.Machine.execGotoReg rm s
  | .gosubReg rm => Sys2Proof.Machine.execGosubReg rm s
  | .gosubImm n22 => Sys2Proof.Machine.execGosubImm n22 s
  | .ret => Sys2Proof.Machine.execRet s
  | .push list => Sys2Proof.Machine.execPush list s
  | .pop list => Sys2Proof.Machine.execPop list s
  | .spAdd u7 => Sys2Proof.Machine.execSpAdd u7 s
  | .spSub u7 => Sys2Proof.Machine.execSpSub u7 s
  | .addSp rd u8 => Sys2Proof.Machine.execAddSp rd u8 s
  | .ldrSp rd u8 => Sys2Proof.Machine.execLdrSp rd u8 s
  | .strSp rd u8 => Sys2Proof.Machine.execStrSp rd u8 s
  | .rev rd rm => Sys2Proof.Machine.execRev rd rm s
  | .rev16 rd rm => Sys2Proof.Machine.execRev16 rd rm s
  | .revsh rd rm => Sys2Proof.Machine.execRevsh rd rm s
  | .asrImm rd rm u5 => Sys2Proof.Machine.execAsrImm rd rm u5 s
  | .asrReg rd rm => Sys2Proof.Machine.execAsrReg rd rm s
  | .bic rd rm => Sys2Proof.Machine.execBic rd rm s
  | .ror rd rm => Sys2Proof.Machine.execRor rd rm s
  | .adc rd rm => Sys2Proof.Machine.execAdc rd rm s
  | .sbc rd rm => Sys2Proof.Machine.execSbc rd rm s
  | .ldm rn list => Sys2Proof.Machine.execLdm rn list s
  | .stm rn list => Sys2Proof.Machine.execStm rn list s
  | .nop => Sys2Proof.Machine.execNop s
  | .cpsid => Sys2Proof.Machine.execCpsid s
  | .cpsie => Sys2Proof.Machine.execCpsie s
  | .wfi => Sys2Proof.Machine.execWfi s
  | .bkpt u8 => Sys2Proof.Machine.execBkpt u8 s
  | .svc u8 => Sys2Proof.Machine.execSvc u8 s
  | .sxtb rd rm => Sys2Proof.Machine.execSxtb rd rm s
  | .sxth rd rm => Sys2Proof.Machine.execSxth rd rm s
  | .uxtb rd rm => Sys2Proof.Machine.execUxtb rd rm s
  | .uxth rd rm => Sys2Proof.Machine.execUxth rd rm s
  | .dmb option => Sys2Proof.Machine.execDmb option s
  | .dsb option => Sys2Proof.Machine.execDsb option s
  | .isb option => Sys2Proof.Machine.execIsb option s
  | .mrs rd sysm => Sys2Proof.Machine.execMrs rd sysm s
  | .msr rn sysm => Sys2Proof.Machine.execMsr rn sysm s
  | .sev => Sys2Proof.Machine.execSev s
  | .wfe => Sys2Proof.Machine.execWfe s
  | .yieldHint => Sys2Proof.Machine.execYield s

end Sys2Proof.Machine
end

