-- ==== Sys2Proof/Machine/Step.lean ====
section
/-! DEFINITION. One step of the machine, and the placing of one instruction where it is fetched. -/

namespace Sys2Proof.Machine

/-- Fetch, decode and execute (R57, R88, R294). An instruction that begins with `T` = 0 faults (R35, R332; log 20). `T` is
tested before the first halfword is fetched, so before R294's `BusFault`, before R67's refusal and before a device sees a
fetch: DESIGN CHOICE, R294 does not place the test (log 20). -/
def State.runInstr (s : State) : Host.Outcome State Fault Refusal :=
  if s.epsrT then
    match fetchInstr s with
    | .trap t s1 => raise t s1
    | .refused r => .refused r
    | .ok h h2 s1 =>
      match s1.instrOf h h2 with
      | some i => exec i s1
      | none => raise (.undefinedInstruction h h2) s1
  else raiseThumbClear s

/-- What a step does after the inputs of its boundary. A reset comes first (R332); a processor in Lockup leaves it only
for NMI (R306); a held processor tries its wait again (R253, R275); a pending exception is taken before the fetch
(R295, R300); else one instruction runs. -/
def State.afterBoundary (s : State) : Host.Outcome State Fault Refusal :=
  if s.scs.resetRequest then .next (resetSequence s)
  else if s.lockup then
    if s.cfg.trapModel = .armv6m ∧ s.scs.nmiPending ∧ -2 < s.execPriority then .next (takeException 2 s.pc s)
    else .next s
  else
    match s.waiting with
    | some w => .next (s.tryWait w)
    | none =>
      match (if s.cfg.trapModel = .armv6m then s.exceptionToTake else none) with
      | some n => .next (takeException n s.pc s)
      | none => s.runInstr

/-- One step. -/
def step (s : State) : Host.Outcome State Fault Refusal := s.boundary.afterBoundary

/-- The state with a table word's instruction placed at `pc`, where the next step fetches it: its bytes, and what a
launch sets for code to run (log 9): `T` is 1 and the processor is neither held nor in Lockup. -/
def State.withFetchWord (s : State) (nbits w : Nat) : State :=
  { s.placeBytes s.pc (tableBytes nbits w) with epsrT := true, waiting := none, lockup := false }

end Sys2Proof.Machine
end

