-- ==== Sys2Proof/Safety.lean ====
section
/-! DEFINITION. The terms of claims: the invariant of the machine, launch states (70_reset_and_hazards R331), the
premise `NoInterruptTaken` (60_exceptions R300) and runs that end as `EndOfRun` says (00_scope R5). -/

namespace Sys2Proof.Machine

/-- What holds of every state a run reaches: the memory's canonical form; `pc` even (R25); bits [1:0] of both stack
pointers 0 (R24, R36); `SPSEL` 0 in Handler mode (R38, R309). -/
def State.Inv (s : State) : Prop :=
  Memory.wf s.mem = true ∧ clearBit0 s.pc = s.pc ∧ alignWord s.msp = s.msp ∧ alignWord s.psp = s.psp ∧
    (s.mode = .handler → s.spsel = false)

/-- R331: a state in which a run may start: Thread mode on the main stack, no exception active, `T` = 1, not held, an
even and executable `pc`, and nothing stored by the program yet. -/
def State.launch (s : State) : Prop :=
  s.Inv ∧ s.mode = .thread ∧ s.spsel = false ∧ s.ipsr = 0 ∧ s.active = [] ∧ s.epsrT = true ∧ s.waiting = none ∧
    s.lockup = false ∧ s.scs.resetRequest = false ∧ s.dirty = [] ∧
    (s.accessClass .fetch s.pc .half).isSome = true

/-- A state whose next boundary brings nothing: no input of the environment, no SysTick clock. -/
def State.quiet (s : State) : Prop := s.env = [] ∧ s.wakeUp = false ∧ s.scs.sysTick.enable = false

/-- A state in which an instruction runs next: no reset is due, the processor is neither in Lockup nor held, no
exception is taken, and `T` = 1. -/
def State.runsNext (s : State) : Prop :=
  s.scs.resetRequest = false ∧ s.lockup = false ∧ s.waiting = none ∧ s.epsrT = true ∧
    (s.cfg.trapModel = .armv6m → s.exceptionToTake = none)

/-- R300 `NoInterruptTaken`, for `k` steps: at none of their boundaries is an exception taken. -/
def noInterruptTaken : Nat → State → Prop
  | 0, _ => True
  | k + 1, s =>
    (s.cfg.trapModel = .armv6m → s.boundary.exceptionToTake = none) ∧
      ∀ t, step s = .next t → noInterruptTaken k t

/-- `k` steps that neither trap terminally nor are refused lead from `s` to `t`. -/
def runsTo (k : Nat) (s t : State) : Prop := Host.Core.run Sys2Proof.core k s = .next t

/-- `EndOfRun` (R5): from `s` a state that meets the condition is reached. -/
def ends (endOfRun : State → Prop) (s : State) : Prop := ∃ k t, runsTo k s t ∧ endOfRun t

end Sys2Proof.Machine
end

