-- ==== Sys2Proof/Certificates/Slice0/Obligations.lean ====
section
/-! DEFINITION. The statements for the provers, with the words of the rules they are written in. -/

namespace Sys2Proof.Claims

open Sys2Proof.Machine

/-! ### Words of the rules -/

/-- An integer fits 32 bits signed (R15). -/
def fitsSigned (z : Int) : Bool := decide (-(2 ^ 31) ≤ z) && decide (z < 2 ^ 31)

/-- The flags of an addition `a + b` (R15, R29). -/
def addFlags (a b : Word) : Flags :=
  ⟨(a + b).msb, a + b == 0, decide (2 ^ 32 ≤ a.toNat + b.toNat), !fitsSigned (a.toInt + b.toInt)⟩

/-- The flags of a subtraction `a - b`: `C` is 1 exactly when there is no borrow (R15, R29). -/
def subFlags (a b : Word) : Flags :=
  ⟨(a - b).msb, a - b == 0, decide (b.toNat ≤ a.toNat), !fitsSigned (a.toInt - b.toInt)⟩

/-- `N` and `Z` of a result, `C` and `V` kept (R12, R30). -/
def nzFlags (f : Flags) (r : Word) : Flags := ⟨r.msb, r == 0, f.c, f.v⟩

/-- `N` and `Z` of a result, `C` given, `V` kept (R30). -/
def nzcFlags (f : Flags) (r : Word) (c : Bool) : Flags := ⟨r.msb, r == 0, c, f.v⟩

/-- The state with one low register, the flags and `pc` written, and all else kept. -/
def wrote (s : State) (rd : BitVec 3) (v : Word) (f : Flags) : State :=
  { s with regs := s.regs.set rd.toNat v (by omega), flags := f, pc := s.pc + 2 }

/-- The state with one low register written and `pc` advanced, and all else kept. -/
def wroteReg (s : State) (rd : BitVec 3) (v : Word) : State :=
  { s with regs := s.regs.set rd.toNat v (by omega), pc := s.pc + 2 }

/-- The state with the flags and `pc` written, and all else kept. -/
def wroteFlags (s : State) (f : Flags) : State := { s with flags := f, pc := s.pc + 2 }

/-- The state with the stack pointer in use written: bits [1:0] cleared (R24), `PSP` in Thread mode with `SPSEL` 1,
`MSP` otherwise (R36). -/
def withStack (s : State) (v : Word) : State :=
  if s.mode = .thread ∧ s.spsel = true then { s with psp := v &&& ~~~3#32 } else { s with msp := v &&& ~~~3#32 }

/-- The state with register `i` of the sixteen written, `PC` apart (R22, R24). -/
def withRegister (s : State) (i : BitVec 4) (v : Word) : State :=
  if h : i.toNat < 13 then { s with regs := s.regs.set i.toNat v }
  else if i = 13 then withStack s v
  else { s with lr := v }

/-- The byte at an address. -/
def byteAt (s : State) (a : Word) : Byte := s.mem.read a.toNat

/-- The halfword at an address, the byte at the lowest address least significant (R54). -/
def halfAt (s : State) (a : Word) : BitVec 16 := byteAt s (a + 1) ++ byteAt s a

/-- The word at an address (R54). -/
def wordAt (s : State) (a : Word) : Word := byteAt s (a + 3) ++ byteAt s (a + 2) ++ byteAt s (a + 1) ++ byteAt s a

/-- Every byte outside the `n` bytes from an address reads in `t` as in `s`. -/
def sameOutside (s t : State) (addr : Word) (n : Nat) : Prop :=
  ∀ a : Nat, (∀ k < n, a ≠ (addr + BitVec.ofNat 32 k).toNat) → t.mem.read a = s.mem.read a

/-- The bytes marked as stored by the program grow by the `n` bytes from an address (R67). -/
def marked (s t : State) (addr : Word) (n : Nat) : Prop :=
  ∀ a : Nat, a ∈ t.dirty ↔ a ∈ s.dirty ∨ ∃ k < n, a = (addr + BitVec.ofNat 32 k).toNat

/-- The numbers of the registers of a list. -/
def listCount (list : BitVec 8) : Nat := ((List.range 8).filter list.getLsbD).length

/-- How many registers of a list are lower than one: the word of register `r` is that many words up. -/
def below (list : BitVec 8) (r : BitVec 3) : Nat := ((List.range r.toNat).filter list.getLsbD).length

/-- The address `n` words above another. -/
def wordUp (a : Word) (n : Nat) : Word := a + BitVec.ofNat 32 (4 * n)

/-- The `n` words from an address are plain memory that admits a kind of access (R58). -/
def plainWords (s : State) (kind : AccessKind) (a : Word) (n : Nat) : Prop :=
  ∀ k < n, s.accessClass kind (wordUp a k) .word = some .plain

/-- `R8` to `R12` are in `t` what they are in `s`. -/
def sameHigh (s t : State) : Prop := ∀ k : Nat, 8 ≤ k → t.regs[k]? = s.regs[k]?

/-! ### Shifts by their arithmetic -/

/-- A left shift by `n`: the product with `2^n`, and its bit 32 (R16). -/
def leftShift (x : Word) (n : Nat) : Word × Bool := (BitVec.ofNat 32 (x.toNat * 2 ^ n), (x.toNat * 2 ^ n).testBit 32)

/-- A logical right shift by `n`: the quotient by `2^n`, and bit `n - 1` of the operand (R16). -/
def rightShift (x : Word) (n : Nat) : Word × Bool := (BitVec.ofNat 32 (x.toNat / 2 ^ n), x.toNat.testBit (n - 1))

/-- An arithmetic right shift by `n`: the floor of the signed quotient, and bit `n - 1` of the operand with its sign
repeated (R16, R228). -/
def signedShift (x : Word) (n : Nat) : Word × Bool :=
  (BitVec.ofInt 32 (x.toInt / 2 ^ n), decide (x.toInt / 2 ^ (n - 1) % 2 = 1))

/-- A rotation right by `n`, and bit 31 of its result (R16). -/
def rightRotation (x : Word) (n : Nat) : Word × Bool := (x.rotateRight n, (x.rotateRight n).msb)

/-- The state after a shift by `n` into `rd`: at amount 0 the value is kept and `C` is not written (R130 to R133). -/
def shifted (s : State) (op : Word → Nat → Word × Bool) (rd : BitVec 3) (x : Word) (n : Nat) : State :=
  if n = 0 then wrote s rd x (nzFlags s.flags x)
  else wrote s rd (op x n).1 (nzcFlags s.flags (op x n).1 (op x n).2)

/-! ### Branches -/

/-- The destination `pc + 4 + 2·n` of a signed offset in halfwords, modulo 2^32 (R85). -/
def destination (s : State) (n : Int) : Word := BitVec.ofInt 32 (s.pc.toNat + 4 + 2 * n)

/-- A value given to `pc` by `GOTO Rm`, `RET` or `POP` is an ordinary address: not an `EXC_RETURN` (R296, R311). -/
def ordinaryTarget (s : State) (v : Word) : Prop :=
  s.cfg.trapModel = .terminal ∨ s.mode = .thread ∨ v.extractLsb' 28 4 ≠ 0xF#4

/-! ### Single accesses -/

/-- The kind, address and size of the access of an instruction that makes one, by the function of its meaning
(R150 to R164, R215, R216). -/
def accessOf (s : State) : Instr → Option (AccessKind × Word × Size)
  | .ldrbImm _ rn u5 => some (.read, s.addrImm rn u5 1, .byte)
  | .ldrhImm _ rn u5 => some (.read, s.addrImm rn u5 2, .half)
  | .ldrImm _ rn u5 => some (.read, s.addrImm rn u5 4, .word)
  | .ldrPc _ u8 => some (.read, s.addrPc u8, .word)
  | .ldrbReg _ rn rm => some (.read, s.addrReg rn rm, .byte)
  | .ldrsbReg _ rn rm => some (.read, s.addrReg rn rm, .byte)
  | .ldrhReg _ rn rm => some (.read, s.addrReg rn rm, .half)
  | .ldrshReg _ rn rm => some (.read, s.addrReg rn rm, .half)
  | .ldrReg _ rn rm => some (.read, s.addrReg rn rm, .word)
  | .ldrSp _ u8 => some (.read, s.addrSp u8, .word)
  | .strbImm _ rn u5 => some (.write, s.addrImm rn u5 1, .byte)
  | .strhImm _ rn u5 => some (.write, s.addrImm rn u5 2, .half)
  | .strImm _ rn u5 => some (.write, s.addrImm rn u5 4, .word)
  | .strbReg _ rn rm => some (.write, s.addrReg rn rm, .byte)
  | .strhReg _ rn rm => some (.write, s.addrReg rn rm, .half)
  | .strReg _ rn rm => some (.write, s.addrReg rn rm, .word)
  | .strSp _ u8 => some (.write, s.addrSp u8, .word)
  | _ => none

/-- The data register of an instruction with one access (R7). -/
def dataRegister : Instr → BitVec 3
  | .ldrbImm rd _ _ | .ldrhImm rd _ _ | .ldrImm rd _ _ | .ldrPc rd _ | .ldrbReg rd _ _ | .ldrsbReg rd _ _
  | .ldrhReg rd _ _ | .ldrshReg rd _ _ | .ldrReg rd _ _ | .ldrSp rd _ | .strbImm rd _ _ | .strhImm rd _ _
  | .strImm rd _ _ | .strbReg rd _ _ | .strhReg rd _ _ | .strReg rd _ _ | .strSp rd _ => rd
  | _ => 0

/-- What a load makes of the value it reads: `C` and `S` extend the sign, the others do not (R52). -/
def extended : Instr → Word → Word
  | .ldrsbReg _ _ _, v => BitVec.ofInt 32 (v.setWidth 8).toInt
  | .ldrshReg _ _ _, v => BitVec.ofInt 32 (v.setWidth 16).toInt
  | _, v => v

/-- A load in plain memory: it completes, its register gets the value, all else is kept. -/
def LoadsPlain (i : Instr) (s : State) (rd : BitVec 3) (addr : Word) (size : Size) (v : Word) : Prop :=
  addr.toNat % size.bytes = 0 → s.accessClass .read addr size = some .plain → exec i s = .next (wroteReg s rd v)

/-- A store in plain memory: it completes, the bytes of its size at its address hold the low bytes of its register,
every other byte reads as before, and all else but `pc` is kept. -/
def StoresPlain (i : Instr) (s : State) (rd : BitVec 3) (addr : Word) (size : Size) : Prop :=
  addr.toNat % size.bytes = 0 → s.accessClass .write addr size = some .plain →
    ∃ t, exec i s = .next t ∧
      (∀ k < size.bytes, byteAt t (addr + BitVec.ofNat 32 k) = (s.lo rd).extractLsb' (8 * k) 8) ∧
      sameOutside s t addr size.bytes ∧ marked s t addr size.bytes ∧
      t = { s with mem := t.mem, dirty := t.dirty, pc := s.pc + 2 }

/-! ### Special registers -/

/-- The flags in bits [31:28] of a word (R35). -/
def flagsWord (f : Flags) : Word :=
  BitVec.ofBool f.n ++ BitVec.ofBool f.z ++ BitVec.ofBool f.c ++ BitVec.ofBool f.v ++ 0#28

/-- The content of the special register of a number, `none` for a reserved number (R35 to R38, R40). -/
def specialContent (s : State) : Nat → Option Word
  | 0 | 2 => some (flagsWord s.flags)
  | 1 | 3 => some (flagsWord s.flags ||| s.ipsr.setWidth 32)
  | 5 | 7 => some (s.ipsr.setWidth 32)
  | 6 => some 0
  | 8 => some s.msp
  | 9 => some s.psp
  | 16 => some (if s.pm then 1 else 0)
  | 20 => some (if s.mode = .thread ∧ s.spsel = true then 2 else 0)
  | _ => none

/-- The state after a write to the special register of a number, `none` for a reserved number (R35 to R38, R40). -/
def specialWritten (s : State) (v : Word) : Nat → Option State
  | 0 | 1 | 2 | 3 => some { s with flags := ⟨v.getLsbD 31, v.getLsbD 30, v.getLsbD 29, v.getLsbD 28⟩ }
  | 5 | 6 | 7 => some s
  | 8 => some { s with msp := v &&& ~~~3#32 }
  | 9 => some { s with psp := v &&& ~~~3#32 }
  | 16 => some { s with pm := v.getLsbD 0 }
  | 20 => some (if s.mode = .thread then { s with spsel := v.getLsbD 1 } else s)
  | _ => none

/-! ### Exceptions -/

/-- R309: `frame = (sp_used - 0x20) with bit 2 cleared`. -/
def frameOf (s : State) : Word := (s.sp - 0x20) &&& ~~~4#32

/-- R309: `xPSR` with bit 9 = `align`. -/
def stackedPsr (s : State) : Word :=
  BitVec.ofBool s.flags.n ++ BitVec.ofBool s.flags.z ++ BitVec.ofBool s.flags.c ++ BitVec.ofBool s.flags.v ++ 0#3 ++
    BitVec.ofBool s.epsrT ++ 0#14 ++ BitVec.ofBool (s.sp.getLsbD 2) ++ 0#3 ++ s.ipsr

/-- The eight words of the frame of R309 stand in `t`'s memory. -/
def FrameStored (s t : State) (ret : Word) : Prop :=
  wordAt t (frameOf s) = s.lo 0 ∧ wordAt t (frameOf s + 0x04) = s.lo 1 ∧ wordAt t (frameOf s + 0x08) = s.lo 2 ∧
    wordAt t (frameOf s + 0x0C) = s.lo 3 ∧ wordAt t (frameOf s + 0x10) = s.reg 12 ∧
    wordAt t (frameOf s + 0x14) = s.lr ∧ wordAt t (frameOf s + 0x18) = ret ∧
    wordAt t (frameOf s + 0x1C) = stackedPsr s

/-- R309: `t` is `s` after the entry of exception `n` with a return address. -/
def Entered (s t : State) (n : Nat) (ret : Word) : Prop :=
  FrameStored s t ret ∧ sameOutside s t (frameOf s) 32 ∧
    t = { s with
      mem := t.mem
      dirty := []
      msp := if s.mode = .thread ∧ s.spsel = true then s.msp else frameOf s
      psp := if s.mode = .thread ∧ s.spsel = true then frameOf s else s.psp
      lr := if s.mode = .handler then 0xFFFFFFF1 else if s.spsel then 0xFFFFFFFD else 0xFFFFFFF9
      mode := .handler
      ipsr := BitVec.ofNat 6 n
      spsel := false
      pc := wordAt t (BitVec.ofNat 32 (4 * n)) &&& ~~~1#32
      epsrT := (wordAt t (BitVec.ofNat 32 (4 * n))).getLsbD 0
      eventReg := true
      active := n :: s.active
      scs := s.scs.clearPending n
      waiting := none
      lockup := false }

/-- The frame and the vector of exception `n` are in plain memory that admits the accesses of an entry (R309, R313). -/
def EntryPossible (s : State) (n : Nat) : Prop :=
  s.sp &&& 3#32 = 0 ∧ plainWords s .write (frameOf s) 8 ∧
    s.accessClass .read (BitVec.ofNat 32 (4 * n)) .word = some .plain

/-- An outcome is the entry of a HardFault (R306): the priority is below −1 and the entry is possible. -/
def BecomesHardFault (o : Host.Outcome State Fault Refusal) (s : State) (ret : Word) : Prop :=
  s.cfg.trapModel = .armv6m → -1 < s.execPriority → EntryPossible s 3 → ∃ t, o = .next t ∧ Entered s t 3 ret

/-- An outcome is a trap in state `t`: with `TRAP_MODEL = terminal` the fault, with `armv6m` a HardFault that returns to
an address (R292, R306). -/
def Traps (o : Host.Outcome State Fault Refusal) (f : Fault) (t : State) (ret : Word) : Prop :=
  (t.cfg.trapModel = .terminal → o = .fault f) ∧ BecomesHardFault o t ret

/-- Of the `n` words from an address those before word `k` are plain memory and word `k` is not admitted (R58). -/
def blockedAt (s : State) (kind : AccessKind) (a : Word) (n k : Nat) : Prop :=
  k < n ∧ plainWords s kind a k ∧ s.accessClass kind (wordUp a k) .word = none

/-- An access of the entry of exception `n` is not admitted: of a word of its frame, those before it being plain memory,
or of its vector (R309, R313). -/
def EntryBlocked (s : State) (n : Nat) : Prop :=
  s.sp &&& 3#32 = 0 ∧
    ((∃ k, blockedAt s .write (frameOf s) 8 k) ∨
      (plainWords s .write (frameOf s) 8 ∧ s.accessClass .read (BitVec.ofNat 32 (4 * n)) .word = none))

/-- `t` is `s` in Lockup after an entry that failed: no byte outside its frame has changed (R306, R313). -/
def LockedInEntry (s t : State) : Prop :=
  sameOutside s t (frameOf s) 32 ∧ t = { s with mem := t.mem, dirty := t.dirty, lockup := true }

/-- R311: the frame an exception return reads. -/
def returnFrame (s : State) (exc : Word) : Word := if exc = 0xFFFFFFFD#32 then s.psp else s.msp

/-- R311: the word of `xPSR` in the frame. -/
def returnPsr (s : State) (exc : Word) : Word := wordAt s (returnFrame s exc + 0x1C)

/-- R311: `(frame + 0x20) with bit 2 set to psr[9]`. -/
def returnStack (s : State) (exc : Word) : Word :=
  ((returnFrame s exc + 0x20) &&& ~~~4#32) ||| (if (returnPsr s exc).getLsbD 9 then 4#32 else 0)

/-- R311: the state after an exception return with a legal `EXC_RETURN`. -/
def returned (s : State) (exc : Word) : State :=
  { s with
    regs := ((((s.regs.set 0 (wordAt s (returnFrame s exc))).set 1 (wordAt s (returnFrame s exc + 0x04))).set 2
      (wordAt s (returnFrame s exc + 0x08))).set 3 (wordAt s (returnFrame s exc + 0x0C))).set 12
      (wordAt s (returnFrame s exc + 0x10))
    lr := wordAt s (returnFrame s exc + 0x14)
    pc := wordAt s (returnFrame s exc + 0x18) &&& ~~~1#32
    flags := ⟨(returnPsr s exc).getLsbD 31, (returnPsr s exc).getLsbD 30, (returnPsr s exc).getLsbD 29,
      (returnPsr s exc).getLsbD 28⟩
    epsrT := true
    ipsr := (returnPsr s exc).extractLsb' 0 6
    msp := if exc = 0xFFFFFFFD#32 then s.msp else returnStack s exc
    psp := if exc = 0xFFFFFFFD#32 then returnStack s exc else s.psp
    mode := if exc = 0xFFFFFFF1#32 then .handler else .thread
    spsel := exc == 0xFFFFFFFD#32
    eventReg := true
    active := s.active.erase s.ipsr.toNat
    dirty := [] }

/-- R311: a return is legal in `s`: Handler mode, one of the three values, a readable frame whose stacked `T` is 1. -/
def ReturnPossible (s : State) (exc : Word) : Prop :=
  s.cfg.trapModel = .armv6m ∧ s.mode = .handler ∧
    (exc = 0xFFFFFFF1#32 ∨ exc = 0xFFFFFFF9#32 ∨ exc = 0xFFFFFFFD#32) ∧
    returnFrame s exc &&& 3#32 = 0 ∧ plainWords s .read (returnFrame s exc) 8 ∧
    (returnPsr s exc).getLsbD 24 = true

/-- R311, R313: an exception return in `s` fails: the value is not legal, or the frame cannot be read, or its stacked `T`
is 0. -/
def ReturnFails (s : State) (exc : Word) : Prop :=
  s.cfg.trapModel = .armv6m ∧ s.mode = .handler ∧ exc.extractLsb' 28 4 = 0xF#4 ∧
    ((exc ≠ 0xFFFFFFF1#32 ∧ exc ≠ 0xFFFFFFF9#32 ∧ exc ≠ 0xFFFFFFFD#32) ∨
      (returnFrame s exc &&& 3#32 = 0 ∧
        ((∃ k, blockedAt s .read (returnFrame s exc) 8 k) ∨
          (plainWords s .read (returnFrame s exc) 8 ∧ (returnPsr s exc).getLsbD 24 = false))))

/-- R311: an instruction gives `pc` an `EXC_RETURN` that returns to Thread mode. -/
def ReturnsToThread (s : State) (i : Instr) : Prop :=
  ∃ v : Word, (v = 0xFFFFFFF9#32 ∨ v = 0xFFFFFFFD#32) ∧
    ((∃ rm, i = .gotoReg rm ∧ s.reg rm = v) ∨ (i = .ret ∧ s.lr = v) ∨
      ∃ list vs s1, i = .pop list ∧ list.getLsbD 8 = true ∧ readWords s.sp (popCount list) s = .ok vs s1 ∧
        vs[listCount (list.setWidth 8)]? = some v)

/-- The state a terminal trap leaves (R292). -/
def faultState : Fault → State
  | .undefinedInstruction _ _ _ t => t
  | .unalignedAccess _ _ t => t
  | .busFault _ _ _ t => t
  | .invalidState _ _ t => t
  | .svCall _ _ t => t
  | .breakpoint _ _ t => t

/-! ### The environment -/

/-- An interrupt, NMI or SysTick is pending in `t` and not in `s`. -/
def pendsMore (s t : State) : Prop :=
  (∃ k < 32, t.scs.irqPending.getLsbD k = true ∧ s.scs.irqPending.getLsbD k = false) ∨
    (t.scs.nmiPending = true ∧ s.scs.nmiPending = false) ∨
    (t.scs.sysTickPending = true ∧ s.scs.sysTickPending = false)

/-- What the inputs of a boundary do: an interrupt and NMI become pending, an event sets the event register, a wake-up
lasts for the boundary, a reset is requested (R41, R300, R301, R332); SysTick's clocks pass (R322); with `SEVONPEND` what
becomes pending is an event (R301). Nothing else of the system control space changes. -/
def TakesInputs (s : State) : Prop :=
  let b := s.boundary
  let es := s.env.headD []
  b.env = s.env.tail ∧
  (b.wakeUp = true ↔ EnvEvent.wakeUp ∈ es) ∧
  (∀ k : Fin 32, b.scs.irqPending.getLsbD k.val = true ↔
    s.scs.irqPending.getLsbD k.val = true ∨ EnvEvent.irq k ∈ es) ∧
  (b.scs.nmiPending = true ↔ s.scs.nmiPending = true ∨ EnvEvent.nmi ∈ es) ∧
  (b.scs.resetRequest = true ↔ s.scs.resetRequest = true ∨ EnvEvent.reset ∈ es) ∧
  (b.eventReg = true ↔
    s.eventReg = true ∨ EnvEvent.event ∈ es ∨ s.scs.sevOnPend = true ∧ pendsMore s b) ∧
  (s.scs.sysTick.enable = false →
    b.scs.sysTick = s.scs.sysTick ∧ b.scs.sysTickPending = s.scs.sysTickPending) ∧
  (s.scs.sysTick.enable = true → ∃ n : Nat,
    b.scs.sysTick = (SysTick.clocks n s.scs.sysTick).1 ∧
    b.scs.sysTickPending =
      (s.scs.sysTickPending || ((SysTick.clocks n s.scs.sysTick).2 && s.scs.sysTick.tickInt))) ∧
  b.scs = { s.scs with
    irqPending := b.scs.irqPending, nmiPending := b.scs.nmiPending, resetRequest := b.scs.resetRequest,
    sysTick := b.scs.sysTick, sysTickPending := b.scs.sysTickPending }

/-! ### Unassigned halfwords -/

/-- R95 and R97: the 16-bit halfwords that no instruction has, by the table of ranges, the parameters and R97's own
ranges. -/
def unassigned16 (c : Config) (h : Half) : Bool :=
  let n := h.toNat
  let among (lo hi : Nat) : Bool := decide (lo ≤ n) && decide (n ≤ hi)
  let known := c.unknownGroup == .admitted
  (among 0x4700 0x47FF && n % 8 != 0) ||
  (among 0xB100 0xB3FF && !(known && among 0xB200 0xB2FF)) ||
  (among 0xB600 0xB6FF && n != 0xB662 && n != 0xB672) ||
  among 0xB700 0xB9FF || among 0xBA80 0xBABF || among 0xBB00 0xBBFF ||
  (among 0xBF00 0xBFFF && n != 0xBF30 && !(known && (n == 0xBF10 || n == 0xBF20 || n == 0xBF40))) ||
  among 0xE800 0xEFFF || among 0xF800 0xFFFF || (c.cond14 == .undefined && among 0xDE00 0xDEFF)

/-- R95 and R97: the pairs after a first halfword 0xF000 to 0xF7FF that no instruction has. -/
def unassigned32 (c : Config) (h h2 : Half) : Bool :=
  let n := h.toNat
  let m := h2.toNat
  let barrier := n == 0xF3BF && decide (0x8F40 ≤ m) && decide (m ≤ 0x8F6F)
  let read := n == 0xF3EF && decide (0x8000 ≤ m) && decide (m ≤ 0x8FFF)
  let write := decide (0xF380 ≤ n) && decide (n ≤ 0xF38F) && decide (0x8800 ≤ m) && decide (m ≤ 0x88FF)
  decide (m < 0xF800) && !(c.unknownGroup == .admitted && (barrier || read || write))

/-! ### The system control space -/

/-- What a word read of each register of R322 gives: the enable and pending bits, the counter and its reload value, the
stated bits of the control registers, the priorities in bits [7:6] of their bytes (R305, R314). -/
def SystemReads (s : State) (irq : Fin 32) : Prop :=
  s.readSystem 0xE000E100 = some (s.scs.irqEnable, s) ∧ s.readSystem 0xE000E180 = some (s.scs.irqEnable, s) ∧
  s.readSystem 0xE000E200 = some (s.scs.irqPending, s) ∧ s.readSystem 0xE000E280 = some (s.scs.irqPending, s) ∧
  s.readSystem 0xE000E014 = some (BitVec.ofNat 32 s.scs.sysTick.reload.toNat, s) ∧
  s.readSystem 0xE000E018 = some (BitVec.ofNat 32 s.scs.sysTick.current.toNat, s) ∧
  s.readSystem 0xE000E01C = some (Config.systCalib, s) ∧ s.readSystem 0xE000ED00 = some (Config.cpuid, s) ∧
  s.readSystem 0xE000ED14 = some (0x208, s) ∧
  (∃ v t, s.readSystem 0xE000E010 = some (v, t) ∧
    v.getLsbD 0 = s.scs.sysTick.enable ∧ v.getLsbD 1 = s.scs.sysTick.tickInt ∧
    v.getLsbD 2 = s.scs.sysTick.clkSource ∧ v.getLsbD 16 = s.scs.sysTick.countFlag ∧
    t = { s with scs := { s.scs with sysTick := { s.scs.sysTick with countFlag := false } } }) ∧
  (∃ v t, s.readSystem 0xE000ED04 = some (v, t) ∧
    v.getLsbD 31 = s.scs.nmiPending ∧ v.getLsbD 28 = s.scs.pendSvPending ∧ v.getLsbD 26 = s.scs.sysTickPending ∧
    t = { s with freeIdx := t.freeIdx }) ∧
  (∃ v t, s.readSystem 0xE000ED0C = some (v, t) ∧ t = { s with freeIdx := t.freeIdx }) ∧
  (∃ v, s.readSystem 0xE000ED10 = some (v, s) ∧
    v.getLsbD 1 = s.scs.sleepOnExit ∧ v.getLsbD 2 = s.scs.sleepDeep ∧ v.getLsbD 4 = s.scs.sevOnPend) ∧
  (∃ v, s.readSystem 0xE000ED1C = some (v, s) ∧ v.toNat / 2 ^ 30 = s.scs.svcPriority.toNat) ∧
  (∃ v, s.readSystem 0xE000ED20 = some (v, s) ∧ v.toNat / 2 ^ 30 = s.scs.sysTickPriority.toNat ∧
    v.toNat / 2 ^ 22 % 4 = s.scs.pendSvPriority.toNat) ∧
  (∃ v, s.readSystem (0xE000E400 + BitVec.ofNat 32 (irq.val / 4 * 4)) = some (v, s) ∧
    v.toNat / 2 ^ (8 * (irq.val % 4) + 6) % 4 = (s.scs.irqPriority[irq.val]).toNat)

end Sys2Proof.Claims

section

open Sys2Proof Sys2Proof.Machine Sys2Proof.Claims

/-! ### Encoding -/

/-- Words the spec writes out decode to their instructions (R110 to R276, examples; R97). -/
def Obligations.SpecExampleWordsDecode : Prop :=
  decode 0x2005 none = .ok (.movImm 0 5) ∧
  decode 0x46F7 none = .ok (.movReg 15 14) ∧
  decode 0x0081 none = .ok (.lslImm 1 0 2) ∧
  decode 0x78C1 none = .ok (.ldrbImm 1 0 3) ∧
  decode 0x4588 none = .ok (.cmpHi 8 1) ∧
  decode 0xD203 none = .ok (.ifCond 2 3) ∧
  decode 0xF000 (some 0xF900) = .ok (.gosubImm 0x100) ∧
  decode 0xB510 none = .ok (.push 0b100010000) ∧
  decode 0xBAC8 none = .ok (.revsh 0 1) ∧
  decode 0xC806 none = .ok (.ldm 0 0b110) ∧
  decode 0xBEAB none = .ok (.bkpt 171) ∧
  decode 0xF3EF (some 0x8010) = .ok (.mrs 0 16) ∧
  decode 0xF380 (some 0x8810) = .ok (.msr 0 16)

/-- Every well-formed instruction is read back from its bytes, whatever bytes follow (R80 to R89, R97). -/
def Obligations.DecodingInvertsEncoding : Prop :=
  ∀ (i : Instr) (rest : List Byte), i.wellFormed = true → decodeBytes (encodeBytes i ++ rest) = .ok (i, rest)

/-- What the decoder reads is well formed and encodes to the halfwords it was read from: each word has one meaning
(R88, R89). -/
def Obligations.EncodingInvertsDecoding : Prop :=
  ∀ (h h2 : Half) (i : Instr), decode h (some h2) = .ok i →
    i.wellFormed = true ∧ encode i = if isWide h then [h, h2] else [h]

/-- The halfwords and pairs with no instruction are exactly those of the table of R95, less those of R97 where they are
admitted, and with `0xDE00` to `0xDEFF` where `COND14` is `undefined` (R86, R95, R97). Fetched, such an encoding raises
`UndefinedInstruction` at its own address and changes nothing before the trap (R95, R291, R292, R306). -/
def Obligations.UnassignedEncodingsAreThoseOfTheTable : Prop :=
  ∀ (s : State) (h h2 : Half),
    (isWide h = false → (s.instrOf h none = none ↔ unassigned16 s.cfg h = true)) ∧
    (isWide h = true → (s.instrOf h (some h2) = none ↔ unassigned32 s.cfg h h2 = true)) ∧
    ∀ o : Option Half, s.epsrT = true → fetchInstr s = .ok h o s → s.instrOf h o = none →
      (s.cfg.trapModel = .terminal → s.runInstr = .fault (.undefinedInstruction h o s.pc s)) ∧
      BecomesHardFault s.runInstr s s.pc

/-! ### The step -/

/-- When the bytes at the program counter encode a well-formed instruction, a step runs that instruction: it is `exec`
of it after the inputs of the boundary have arrived. The boundary moves no register, no flag, no byte of memory, takes
the inputs of the environment and no other, and a quiet one changes nothing at all (R41, R300, R301, R332). A halfword at
an address that MemMap does not admit for a fetch is the trap `BusFault` with that address, reported at the instruction;
a halfword the program has stored is refused (R57, R67, R294). The form of the inputs is the model's
(notes/assumptions/11), as are what is an event with `SEVONPEND` (notes/assumptions/22), SysTick's count
(notes/assumptions/21), and that the refusal of a first halfword comes before the second is fetched
(notes/assumptions/16). -/
def Obligations.StepRunsTheDecodedInstruction : Prop :=
  (∀ (s : State) (i : Instr), s.boundary.runsNext → i.wellFormed = true → s.boundary.cfg.admits i = true →
    clearBit0 s.boundary.pc = s.boundary.pc →
    (∀ k b, (encodeBytes i)[k]? = some b →
      byteAt s.boundary (s.boundary.pc + BitVec.ofNat 32 k) = b ∧
      (s.boundary.pc + BitVec.ofNat 32 k).toNat ∉ s.boundary.dirty) →
    (∀ k < (encode i).length,
      s.boundary.accessClass .fetch (s.boundary.pc + BitVec.ofNat 32 (2 * k)) .half = some .plain) →
    step s = exec i s.boundary) ∧
  (∀ s : State, s.boundary = { s with
    scs := s.boundary.scs, eventReg := s.boundary.eventReg, env := s.boundary.env, wakeUp := s.boundary.wakeUp,
    freeIdx := s.boundary.freeIdx }) ∧
  (∀ s : State, TakesInputs s) ∧
  (∀ s : State, s.quiet → s.boundary = s) ∧
  (∀ s : State, s.boundary.runsNext → clearBit0 s.boundary.pc = s.boundary.pc →
    let b := s.boundary
    let stored : Word → Prop := fun a => a.toNat ∈ b.dirty ∨ (a + 1).toNat ∈ b.dirty
    (b.accessClass .fetch b.pc .half = none → Traps (step s) (.busFault b.pc .fetch b.pc b) b b.pc) ∧
    (b.accessClass .fetch b.pc .half = some .plain →
      (stored b.pc → step s = .refused .storedCodeFetch) ∧
      (¬ stored b.pc → isWide (halfAt b b.pc) = true →
        (b.accessClass .fetch (b.pc + 2) .half = none →
          Traps (step s) (.busFault (b.pc + 2) .fetch b.pc b) b b.pc) ∧
        (b.accessClass .fetch (b.pc + 2) .half = some .plain → stored (b.pc + 2) →
          step s = .refused .storedCodeFetch))))

/-- The state after reset meets the invariant. The values of pc, MSP, PSP and SPSEL in the reset state are the model's
(notes/assumptions/7 and 8). -/
def Obligations.ResetMeetsTheInvariant : Prop := State.reset.Inv

/-- Every step keeps the invariant: canonical memory, an even `pc`, word-aligned stack pointers, `SPSEL` 0 in Handler
mode (R24, R25, R36, R38); and it changes no parameter of R5. The canonical form of memory is the model's
(notes/assumptions/6). No run from reset is assumed. -/
def Obligations.EveryStepKeepsTheInvariant : Prop :=
  ∀ s t : State, s.Inv → step s = .next t → t.Inv ∧ t.cfg = s.cfg

/-- A reset that is due leaves R332's register values, the stack pointer and `pc` from the vector table, no pending
exception, and memory as it was. That it runs as a step of its own at the very next boundary is the model's reading
(notes/assumptions/23). -/
def Obligations.ResetLoadsTheVectorTable : Prop :=
  ∀ s : State, s.boundary.scs.resetRequest = true →
    s.accessClass .read 0 .word = some .plain → s.accessClass .read 4 .word = some .plain →
    ∃ t, step s = .next t ∧
      t.mode = .thread ∧ t.pm = false ∧ t.spsel = false ∧ t.ipsr = 0 ∧ t.lr = 0xFFFFFFFF ∧
      t.msp = wordAt s 0 &&& ~~~3#32 ∧ t.pc = wordAt s 4 &&& ~~~1#32 ∧ t.epsrT = (wordAt s 4).getLsbD 0 ∧
      t.eventReg = false ∧ t.pendingExceptions = [] ∧ t.active = [] ∧ t.waiting = none ∧ t.lockup = false ∧
      t.mem = s.mem ∧ t.cfg = s.cfg

/-! ### Memory -/

/-- R54: the value read is the sum of the bytes times powers of 256, addresses modulo 2^32; the bytes of 0x11223344. -/
def Obligations.ReadsAreLittleEndian : Prop :=
  (∀ (s : State) (a : Word) (size : Size) (kind : AccessKind), a.toNat % size.bytes = 0 →
    s.accessClass kind a size = some .plain →
    ∃ v, memRead kind a size s = .ok v s ∧
      v.toNat = ((List.range size.bytes).map fun i => (byteAt s (a + BitVec.ofNat 32 i)).toNat * 256 ^ i).sum) ∧
  (∀ (m : Memory) (a : Word),
    Memory.load (m.store a 4 0x11223344) a 1 = 0x44 ∧ Memory.load (m.store a 4 0x11223344) (a + 1) 1 = 0x33 ∧
    Memory.load (m.store a 4 0x11223344) a 2 = 0x3344 ∧ Memory.load (m.store a 4 0x11223344) (a + 2) 2 = 0x1122)

/-- A store sets the bytes `(v >> 8·i) mod 256` and no other byte, and marks them as stored (R55, R58, R67). That an
admitted store sets those of its bytes that are plain memory, where others are a device's, is the model's choice
(notes/assumptions/5); the marks are its form of R67 (notes/assumptions/16). -/
def Obligations.WritesSetTheirBytesAndNoOther : Prop :=
  ∀ (s : State) (a v : Word) (size : Size), a.toNat % size.bytes = 0 →
    (s.accessClass .write a size = some .plain →
      ∃ t, memWrite a size v s = .ok () t ∧
        (∀ i < size.bytes, (byteAt t (a + BitVec.ofNat 32 i)).toNat = v.toNat / 2 ^ (8 * i) % 256) ∧
        sameOutside s t a size.bytes ∧ marked s t a size.bytes ∧ t = { s with mem := t.mem, dirty := t.dirty }) ∧
    (s.accessClass .write a size ≠ none →
      ∃ t, memWrite a size v s = .ok () t ∧
        (∀ i < size.bytes, byteClass s.cfg .write (a + BitVec.ofNat 32 i).toNat = some .plain →
          (byteAt t (a + BitVec.ofNat 32 i)).toNat = v.toNat / 2 ^ (8 * i) % 256) ∧
        (∀ b : Nat, (∀ i < size.bytes, byteClass s.cfg .write (a + BitVec.ofNat 32 i).toNat = some .plain →
          b ≠ (a + BitVec.ofNat 32 i).toNat) → t.mem.read b = s.mem.read b) ∧
        marked s t a size.bytes)

/-- The canonical form: a write of one byte keeps it, the written byte reads back, and two memories of the form that
read the same at every address are the same list (R43, R50; log 6). That an unlisted byte reads as 0 is the model's
choice (notes/assumptions/6). -/
def Obligations.MemoryHasOneFormForEachContent : Prop :=
  (∀ (m : Memory) (a : Nat) (b : Byte), m.wf = true → a < 2 ^ 32 → (m.write a b).wf = true ∧ (m.write a b).read a = b) ∧
  (∀ m n : Memory, m.wf = true → n.wf = true → (∀ a, m.read a = n.read a) → m = n)

/-- R56: an access whose address is no multiple of its size is not performed: the read and the write raise
`UnalignedAccess` and leave the state as it was. -/
def Obligations.MisalignedAccessesAreNotPerformed : Prop :=
  ∀ (s : State) (kind : AccessKind) (a v : Word) (size : Size),
    (a.toNat % size.bytes ≠ 0 →
      memRead kind a size s = .trap (.unalignedAccess a) s ∧ memWrite a size v s = .trap (.unalignedAccess a) s) ∧
    (size = .byte → a.toNat % size.bytes = 0)

/-! ### Assignment -/

/-- `Rd = u8` writes the zero-extended byte, `N` 0, `Z` for a byte of 0, and keeps `C`, `V` and all else (R110). -/
def Obligations.MoveImmediateWritesAByte : Prop :=
  ∀ (s : State) (rd : BitVec 3) (u8 : BitVec 8),
    exec (.movImm rd u8) s = .next (wrote s rd (BitVec.ofNat 32 u8.toNat) ⟨false, u8 == 0, s.flags.c, s.flags.v⟩)

/-- `Rd = Rm` on any of the sixteen: `PC` as destination is a branch that ignores bit 0, `SP` gets bits [1:0] cleared;
no flag changes (R111). As operands, `PC` reads `pc + 4`, 13 is `PSP` in Thread mode with `SPSEL` 1 and `MSP` otherwise,
14 is `LR` (R22, R27, R36). -/
def Obligations.MoveRegisterCopies : Prop :=
  ∀ (s : State) (rd rm : BitVec 4),
    (rd ≠ 15 → exec (.movReg rd rm) s = .next { withRegister s rd (s.reg rm) with pc := s.pc + 2 }) ∧
    exec (.movReg 15 rm) s = .next { s with pc := s.reg rm &&& ~~~1#32 } ∧
    s.reg 15 = s.pc + 4 ∧ s.reg 14 = s.lr ∧
    s.reg 13 = (if s.mode = .thread ∧ s.spsel = true then s.psp else s.msp) ∧
    (∀ i : BitVec 4, ∀ h : i.toNat < 13, s.reg i = s.regs[i.toNat])

/-! ### Arithmetic -/

/-- R15: `AddWithCarry` of `a` and `b` is their sum with the unsigned carry and the signed overflow, and of `a`,
`NOT(b)` and 1 it is the difference, `carry` 1 exactly when there is no borrow. -/
def Obligations.AddWithCarryIsAdditionAndSubtraction : Prop :=
  ∀ a b : Word,
    addWithCarry a b false =
      ⟨a + b, decide (2 ^ 32 ≤ a.toNat + b.toNat), !fitsSigned (a.toInt + b.toInt)⟩ ∧
    addWithCarry a (~~~b) true = ⟨a - b, decide (b.toNat ≤ a.toNat), !fitsSigned (a.toInt - b.toInt)⟩ ∧
    ∀ cin : Bool,
      addWithCarry a b cin =
        ⟨BitVec.ofNat 32 (a.toNat + b.toNat + cin.toNat), decide (2 ^ 32 ≤ a.toNat + b.toNat + cin.toNat),
          !fitsSigned (a.toInt + b.toInt + cin.toNat)⟩

/-- The additions and subtractions of low registers write the sum or the difference and its four flags (R120, R121,
R124 to R127). -/
def Obligations.AdditionsAndSubtractionsWriteTheirResult : Prop :=
  ∀ (s : State) (rd rn rm u3 : BitVec 3) (u8 : BitVec 8),
    exec (.addImm8 rd u8) s =
      .next (wrote s rd (s.lo rd + u8.setWidth 32) (addFlags (s.lo rd) (u8.setWidth 32))) ∧
    exec (.addImm3 rd rn u3) s =
      .next (wrote s rd (s.lo rn + u3.setWidth 32) (addFlags (s.lo rn) (u3.setWidth 32))) ∧
    exec (.addReg rd rn rm) s = .next (wrote s rd (s.lo rn + s.lo rm) (addFlags (s.lo rn) (s.lo rm))) ∧
    exec (.subImm8 rd u8) s =
      .next (wrote s rd (s.lo rd - u8.setWidth 32) (subFlags (s.lo rd) (u8.setWidth 32))) ∧
    exec (.subImm3 rd rn u3) s =
      .next (wrote s rd (s.lo rn - u3.setWidth 32) (subFlags (s.lo rn) (u3.setWidth 32))) ∧
    exec (.subReg rd rn rm) s = .next (wrote s rd (s.lo rn - s.lo rm) (subFlags (s.lo rn) (s.lo rm)))

/-- `Rd = -Rm` writes the negation; `C` is 1 exactly for 0 and `V` exactly for 0x80000000 (R128). -/
def Obligations.NegationOfARegister : Prop :=
  ∀ (s : State) (rd rm : BitVec 3),
    exec (.neg rd rm) s =
      .next (wrote s rd (-s.lo rm) ⟨(-s.lo rm).msb, s.lo rm == 0, s.lo rm == 0, s.lo rm == 0x80000000#32⟩)

/-- `Rd *= Rm` writes the low 32 bits of the product, the same for signed and unsigned operands, and keeps `C` and `V`
(R129). -/
def Obligations.MultiplyKeepsTheLowHalfOfTheProduct : Prop :=
  ∀ (s : State) (rd rm : BitVec 3),
    let p : Word := BitVec.ofNat 32 ((s.lo rd).toNat * (s.lo rm).toNat)
    exec (.mul rd rm) s = .next (wrote s rd p (nzFlags s.flags p)) ∧
    p = BitVec.ofInt 32 ((s.lo rd).toInt * (s.lo rm).toInt)

/-- `ADC` adds the carry and `SBC` subtracts its complement, with the flags of the exact sum and difference (R233,
R234). -/
def Obligations.CarryArithmetic : Prop :=
  ∀ (s : State) (rd rm : BitVec 3),
    let a := s.lo rd
    let b := s.lo rm
    let c := s.flags.c.toNat
    let sum : Word := BitVec.ofNat 32 (a.toNat + b.toNat + c)
    let diff : Word := BitVec.ofInt 32 (a.toNat - b.toNat - (1 - c))
    exec (.adc rd rm) s =
      .next (wrote s rd sum
        ⟨sum.msb, sum == 0, decide (2 ^ 32 ≤ a.toNat + b.toNat + c), !fitsSigned (a.toInt + b.toInt + c)⟩) ∧
    exec (.sbc rd rm) s =
      .next (wrote s rd diff
        ⟨diff.msb, diff == 0, decide (b.toNat + (1 - c) ≤ a.toNat), !fitsSigned (a.toInt - b.toInt - (1 - c))⟩)

/-- R16: the helpers for amounts from 1 up, by the arithmetic of the shifts, 32 and more included; at amount 0 no helper
is called, the value is unchanged and `C` is not written. -/
def Obligations.ShiftHelpersFollowArithmetic : Prop :=
  ∀ (x : Word) (n : Nat),
    (1 ≤ n → lslC x n = leftShift x n ∧ lsrC x n = rightShift x n ∧ asrC x n = signedShift x n ∧
      rorC x n = rightRotation x n) ∧
    ∀ (op : Word → Nat → Word × Bool) (f : Flags), shiftBy op x 0 f = (x, nzFlags f x)

/-- `Rd = Rm << u5`: amount 0 keeps the value and `C`; and `NOP`, the same bits with all fields 0, writes `N` and `Z`
from `x[0]` and changes no register (R130, R250). -/
def Obligations.LeftShiftByImmediate : Prop :=
  ∀ (s : State) (rd rm : BitVec 3) (u5 : BitVec 5),
    exec (.lslImm rd rm u5) s = .next (shifted s leftShift rd (s.lo rm) u5.toNat) ∧
    exec .nop s = .next (wroteFlags s (nzFlags s.flags (s.lo 0)))

/-- The two right shifts by an immediate: the field is the amount 1 to 31; the field value 0 is the amount 0, the amount
32 or refused, as `IMM_SHIFT0` says (R131, R228). -/
def Obligations.RightShiftsByImmediate : Prop :=
  ∀ (s : State) (rd rm : BitVec 3) (u5 : BitVec 5),
    (u5 ≠ 0 →
      exec (.lsrImm rd rm u5) s = .next (shifted s rightShift rd (s.lo rm) u5.toNat) ∧
      exec (.asrImm rd rm u5) s = .next (shifted s signedShift rd (s.lo rm) u5.toNat)) ∧
    (s.cfg.immShift0 = .amount0 →
      exec (.lsrImm rd rm 0) s = .next (wrote s rd (s.lo rm) (nzFlags s.flags (s.lo rm))) ∧
      exec (.asrImm rd rm 0) s = .next (wrote s rd (s.lo rm) (nzFlags s.flags (s.lo rm)))) ∧
    (s.cfg.immShift0 = .amount32 →
      exec (.lsrImm rd rm 0) s = .next (wrote s rd 0 ⟨false, true, (s.lo rm).msb, s.flags.v⟩) ∧
      exec (.asrImm rd rm 0) s =
        .next (wrote s rd (if (s.lo rm).msb then 0xFFFFFFFF else 0)
          ⟨(s.lo rm).msb, !(s.lo rm).msb, (s.lo rm).msb, s.flags.v⟩)) ∧
    (s.cfg.immShift0 = .unset →
      exec (.lsrImm rd rm 0) s = .refused .immShift0Unset ∧ exec (.asrImm rd rm 0) s = .refused .immShift0Unset)

/-- The shifts and the rotation by a register take the low byte of `Rm` as the amount (R132, R133, R229, R231). -/
def Obligations.ShiftsByRegister : Prop :=
  ∀ (s : State) (rd rm : BitVec 3),
    let n := (s.lo rm).toNat % 256
    exec (.lslReg rd rm) s = .next (shifted s leftShift rd (s.lo rd) n) ∧
    exec (.lsrReg rd rm) s = .next (shifted s rightShift rd (s.lo rd) n) ∧
    exec (.asrReg rd rm) s = .next (shifted s signedShift rd (s.lo rd) n) ∧
    exec (.ror rd rm) s = .next (shifted s rightRotation rd (s.lo rd) n)

/-- The logic instructions write their bitwise result, `N` and `Z`, and keep `C` and `V` (R134 to R137, R230). -/
def Obligations.LogicWritesBitwiseResults : Prop :=
  ∀ (s : State) (rd rm : BitVec 3),
    (∃ r, exec (.mvn rd rm) s = .next (wrote s rd r (nzFlags s.flags r)) ∧
      ∀ k < 32, r.getLsbD k = !(s.lo rm).getLsbD k) ∧
    (∃ r, exec (.andReg rd rm) s = .next (wrote s rd r (nzFlags s.flags r)) ∧
      ∀ k < 32, r.getLsbD k = ((s.lo rd).getLsbD k && (s.lo rm).getLsbD k)) ∧
    (∃ r, exec (.orrReg rd rm) s = .next (wrote s rd r (nzFlags s.flags r)) ∧
      ∀ k < 32, r.getLsbD k = ((s.lo rd).getLsbD k || (s.lo rm).getLsbD k)) ∧
    (∃ r, exec (.eorReg rd rm) s = .next (wrote s rd r (nzFlags s.flags r)) ∧
      ∀ k < 32, r.getLsbD k = ((s.lo rd).getLsbD k ^^ (s.lo rm).getLsbD k)) ∧
    (∃ r, exec (.bic rd rm) s = .next (wrote s rd r (nzFlags s.flags r)) ∧
      ∀ k < 32, r.getLsbD k = ((s.lo rd).getLsbD k && !(s.lo rm).getLsbD k))

/-- `Rd = PC + u8` rounds `pc + 4` down to a multiple of 4 before it adds; `Rd = SP + u8` adds to `SP`; `SP += u7` and
`SP -= u7` move the stack pointer in use by 4·u7; no flag (R122, R212 to R214). -/
def Obligations.AddressesOfNearbyWordsAndStackMoves : Prop :=
  ∀ (s : State) (rd : BitVec 3) (u8 : BitVec 8) (u7 : BitVec 7),
    exec (.adr rd u8) s =
      .next (wroteReg s rd (BitVec.ofNat 32 ((s.pc + 4).toNat / 4 * 4 + 4 * u8.toNat))) ∧
    exec (.addSp rd u8) s = .next (wroteReg s rd (BitVec.ofNat 32 (s.sp.toNat + 4 * u8.toNat))) ∧
    exec (.spAdd u7) s = .next { withStack s (s.sp + BitVec.ofNat 32 (4 * u7.toNat)) with pc := s.pc + 2 } ∧
    exec (.spSub u7) s = .next { withStack s (s.sp - BitVec.ofNat 32 (4 * u7.toNat)) with pc := s.pc + 2 }

/-- `Rd += Rm` on any of the sixteen writes the sum and no flag; with `PC` as destination it is a branch that ignores
bit 0; with both `PC` it is refused (R123). -/
def Obligations.HighRegisterAddition : Prop :=
  ∀ (s : State) (rd rm : BitVec 4),
    (rd ≠ 15 → exec (.addHi rd rm) s = .next { withRegister s rd (s.reg rd + s.reg rm) with pc := s.pc + 2 }) ∧
    (rm ≠ 15 → exec (.addHi 15 rm) s = .next { s with pc := (s.pc + 4 + s.reg rm) &&& ~~~1#32 }) ∧
    exec (.addHi 15 15) s = .refused .addPcToPc

/-! ### Compares -/

/-- The compares and tests write the flags of their operation and nothing else but `pc` (R180, R181, R183, R184). The
4-bit compare is refused with `PC` and with two low registers, and does the same for every other pair (R182). -/
def Obligations.ComparesWriteOnlyFlags : Prop :=
  ∀ (s : State) (rn rm : BitVec 3) (u8 : BitVec 8) (hn hm : BitVec 4),
    exec (.cmpImm rn u8) s = .next (wroteFlags s (subFlags (s.lo rn) (u8.setWidth 32))) ∧
    exec (.cmpReg rn rm) s = .next (wroteFlags s (subFlags (s.lo rn) (s.lo rm))) ∧
    exec (.cmn rn rm) s = .next (wroteFlags s (addFlags (s.lo rn) (s.lo rm))) ∧
    exec (.tst rn rm) s = .next (wroteFlags s (nzFlags s.flags (s.lo rn &&& s.lo rm))) ∧
    (hn = 15 ∨ hm = 15 → exec (.cmpHi hn hm) s = .refused .compareWithPc) ∧
    (hn.toNat < 8 → hm.toNat < 8 → exec (.cmpHi hn hm) s = .refused .compareTwoLow) ∧
    (hn ≠ 15 → hm ≠ 15 → 8 ≤ hn.toNat ∨ 8 ≤ hm.toNat →
      exec (.cmpHi hn hm) s = .next (wroteFlags s (subFlags (s.reg hn) (s.reg hm))))

/-- After a compare the conditions mean what their names say of the two operands (R181, R191). -/
def Obligations.ConditionsOrderTheComparedValues : Prop :=
  ∀ a b : Word,
    let f := subFlags a b
    (conditionPassed 0 f ↔ a = b) ∧ (conditionPassed 1 f ↔ a ≠ b) ∧
    (conditionPassed 2 f ↔ b.toNat ≤ a.toNat) ∧ (conditionPassed 3 f ↔ a.toNat < b.toNat) ∧
    (conditionPassed 8 f ↔ b.toNat < a.toNat) ∧ (conditionPassed 9 f ↔ a.toNat ≤ b.toNat) ∧
    (conditionPassed 10 f ↔ b.toInt ≤ a.toInt) ∧ (conditionPassed 11 f ↔ a.toInt < b.toInt) ∧
    (conditionPassed 12 f ↔ b.toInt < a.toInt) ∧ (conditionPassed 13 f ↔ a.toInt ≤ b.toInt)

/-! ### Loads and stores -/

/-- The ten loads in plain memory: address by R84, size and extension by R52, the register gets the little-endian value
and nothing else changes but `pc` (R150 to R158, R215). -/
def Obligations.LoadsReadPlainMemory : Prop :=
  ∀ (s : State) (rd rn rm : BitVec 3) (u5 : BitVec 5) (u8 : BitVec 8),
    let imm : Word → Word := fun scale => s.lo rn + scale * u5.setWidth 32
    let idx : Word := s.lo rn + s.lo rm
    let lit : Word := BitVec.ofNat 32 ((s.pc + 4).toNat / 4 * 4 + 4 * u8.toNat)
    let slot : Word := BitVec.ofNat 32 (s.sp.toNat + 4 * u8.toNat)
    LoadsPlain (.ldrbImm rd rn u5) s rd (imm 1) .byte ((byteAt s (imm 1)).setWidth 32) ∧
    LoadsPlain (.ldrhImm rd rn u5) s rd (imm 2) .half ((halfAt s (imm 2)).setWidth 32) ∧
    LoadsPlain (.ldrImm rd rn u5) s rd (imm 4) .word (wordAt s (imm 4)) ∧
    LoadsPlain (.ldrPc rd u8) s rd lit .word (wordAt s lit) ∧
    LoadsPlain (.ldrbReg rd rn rm) s rd idx .byte ((byteAt s idx).setWidth 32) ∧
    LoadsPlain (.ldrsbReg rd rn rm) s rd idx .byte (BitVec.ofInt 32 (byteAt s idx).toInt) ∧
    LoadsPlain (.ldrhReg rd rn rm) s rd idx .half ((halfAt s idx).setWidth 32) ∧
    LoadsPlain (.ldrshReg rd rn rm) s rd idx .half (BitVec.ofInt 32 (halfAt s idx).toInt) ∧
    LoadsPlain (.ldrReg rd rn rm) s rd idx .word (wordAt s idx) ∧
    LoadsPlain (.ldrSp rd u8) s rd slot .word (wordAt s slot)

/-- The seven stores in plain memory: the bytes at the address of the instruction's own address function hold the low
bytes of the register, every other byte and all else but `pc` is kept (R159 to R164, R216; R67 for the marks). The
address functions are base plus scaled immediate, base plus index, and `SP + 4·u8`, modulo 2^32 (R61, R84). -/
def Obligations.StoresWritePlainMemory : Prop :=
  ∀ (s : State) (rd rn rm : BitVec 3) (u5 : BitVec 5) (u8 : BitVec 8),
    StoresPlain (.strbImm rd rn u5) s rd (s.addrImm rn u5 1) .byte ∧
    StoresPlain (.strhImm rd rn u5) s rd (s.addrImm rn u5 2) .half ∧
    StoresPlain (.strImm rd rn u5) s rd (s.addrImm rn u5 4) .word ∧
    StoresPlain (.strbReg rd rn rm) s rd (s.addrReg rn rm) .byte ∧
    StoresPlain (.strhReg rd rn rm) s rd (s.addrReg rn rm) .half ∧
    StoresPlain (.strReg rd rn rm) s rd (s.addrReg rn rm) .word ∧
    StoresPlain (.strSp rd u8) s rd (s.addrSp u8) .word ∧
    (∀ scale : Nat,
      (s.addrImm rn u5 (BitVec.ofNat 32 scale)).toNat = ((s.lo rn).toNat + u5.toNat * scale) % 2 ^ 32) ∧
    (s.addrReg rn rm).toNat = ((s.lo rn).toNat + (s.lo rm).toNat) % 2 ^ 32 ∧
    (s.addrSp u8).toNat = (s.sp.toNat + 4 * u8.toNat) % 2 ^ 32

/-- A load or store with one access traps before it does anything: at a misaligned address with `UnalignedAccess`, at an
aligned address the map does not admit with `BusFault`, its address and kind. The trap ends the run, or becomes a
HardFault (R56, R58, R291 to R294, R306). -/
def Obligations.MisalignedAndUnadmittedAccessesTrap : Prop :=
  ∀ (s : State) (i : Instr) (kind : AccessKind) (addr : Word) (size : Size), accessOf s i = some (kind, addr, size) →
    (addr.toNat % size.bytes ≠ 0 →
      (s.cfg.trapModel = .terminal → exec i s = .fault (.unalignedAccess addr s.pc s)) ∧
      BecomesHardFault (exec i s) s s.pc) ∧
    (addr.toNat % size.bytes = 0 → s.accessClass kind addr size = none →
      (s.cfg.trapModel = .terminal → exec i s = .fault (.busFault addr kind s.pc s)) ∧
      BecomesHardFault (exec i s) s s.pc)

/-- An access to a device is seen once, with its kind, address and size: a read gives some value, whatever it is, a
write its low bytes; memory is untouched, but for those bytes of the access that are plain memory, which are read and
stored as such (R54, R55, R60); every byte of a write is marked as stored (R67). A word access to a register of the
system control space reads its content or writes it, and the content of every register is given (R322). That the log
records one entry for each access is the model's form of R60 (notes/assumptions/15), the marks that of R67
(notes/assumptions/16); an access of mixed bytes is notes/assumptions/5; which registers read back what was written,
that CCR has no other bit, and that a read clears COUNTFLAG are notes/assumptions/21 and 22. -/
def Obligations.DeviceAndSystemAccesses : Prop :=
  ∀ (s : State) (i : Instr) (addr : Word) (size : Size) (irq : Fin 32), addr.toNat % size.bytes = 0 →
    let plainByte : AccessKind → Nat → Prop := fun kind k =>
      k < size.bytes ∧ byteClass s.cfg kind (addr + BitVec.ofNat 32 k).toNat = some .plain
    (accessOf s i = some (.read, addr, size) → s.accessClass .read addr size = some .device →
      ∃ t v, exec i s = .next t ∧ v &&& size.mask = v ∧
        (∀ k, plainByte .read k → v.extractLsb' (8 * k) 8 = byteAt s (addr + BitVec.ofNat 32 k)) ∧
        t = { wroteReg s (dataRegister i) (extended i v) with
          deviceLog := s.deviceLog ++ [⟨.read, addr, size, v⟩], freeIdx := t.freeIdx }) ∧
    (accessOf s i = some (.write, addr, size) → s.accessClass .write addr size = some .device →
      ∃ t, exec i s = .next t ∧
        (∀ k, plainByte .write k →
          byteAt t (addr + BitVec.ofNat 32 k) = (s.lo (dataRegister i)).extractLsb' (8 * k) 8) ∧
        (∀ a : Nat, (∀ k, plainByte .write k → a ≠ (addr + BitVec.ofNat 32 k).toNat) →
          t.mem.read a = s.mem.read a) ∧
        ((∀ k, ¬ plainByte .write k) → t.mem = s.mem) ∧ marked s t addr size.bytes ∧
        t = { s with
          mem := t.mem, dirty := t.dirty, pc := s.pc + 2,
          deviceLog := s.deviceLog ++ [⟨.write, addr, size, s.lo (dataRegister i) &&& size.mask⟩] }) ∧
    (∀ t v, size = .word → accessOf s i = some (.read, addr, size) → s.accessClass .read addr size = some .system →
      s.readSystem addr = some (v, t) → exec i s = .next (wroteReg t (dataRegister i) v)) ∧
    (∀ t, size = .word → accessOf s i = some (.write, addr, size) → s.accessClass .write addr size = some .system →
      s.writeSystem addr (s.lo (dataRegister i)) = some t →
      ∃ u, exec i s = .next u ∧ marked s u addr 4 ∧ u = { t with dirty := u.dirty, pc := s.pc + 2 }) ∧
    SystemReads s irq

/-! ### Branches -/

/-- R191: the fifteen conditions by the flags; 2k and 2k + 1 are opposites. -/
def Obligations.ConditionsTestTheFlags : Prop :=
  ∀ f : Flags,
    (conditionPassed 0 f ↔ f.z = true) ∧ (conditionPassed 1 f ↔ f.z = false) ∧
    (conditionPassed 2 f ↔ f.c = true) ∧ (conditionPassed 3 f ↔ f.c = false) ∧
    (conditionPassed 4 f ↔ f.n = true) ∧ (conditionPassed 5 f ↔ f.n = false) ∧
    (conditionPassed 6 f ↔ f.v = true) ∧ (conditionPassed 7 f ↔ f.v = false) ∧
    (conditionPassed 8 f ↔ f.z = false ∧ f.c = true) ∧ (conditionPassed 9 f ↔ f.z = true ∨ f.c = false) ∧
    (conditionPassed 10 f ↔ f.n = f.v) ∧ (conditionPassed 11 f ↔ f.n ≠ f.v) ∧
    (conditionPassed 12 f ↔ f.z = false ∧ f.n = f.v) ∧ (conditionPassed 13 f ↔ f.z = true ∨ f.n ≠ f.v) ∧
    conditionPassed 14 f ∧
    ∀ k < 7, conditionPassed (BitVec.ofNat 4 (2 * k + 1)) f = !conditionPassed (BitVec.ofNat 4 (2 * k)) f

/-- The branches with an offset go to `pc + 4 + 2·n` with the signed field, a conditional one only when its condition
holds; `GOSUB n22` leaves the next instruction's address plus 1 in `LR`; nothing else changes (R85, R190, R192 to R194,
R197). -/
def Obligations.OffsetBranchesReachTheirDestination : Prop :=
  ∀ (s : State) (n8 : BitVec 8) (n11 : BitVec 11) (n22 : BitVec 22) (cond : BitVec 4),
    exec (.ifZero n8) s = .next { s with pc := if s.flags.z then destination s n8.toInt else s.pc + 2 } ∧
    exec (.ifNonZero n8) s = .next { s with pc := if s.flags.z then s.pc + 2 else destination s n8.toInt } ∧
    (cond ≠ 15 → exec (.ifCond cond n8) s =
      .next { s with pc := if conditionPassed cond s.flags then destination s n8.toInt else s.pc + 2 }) ∧
    exec (.gotoImm n11) s = .next { s with pc := destination s n11.toInt } ∧
    exec (.gosubImm n22) s = .next { s with lr := (s.pc + 4) ||| 1, pc := destination s n22.toInt }

/-- A branch to an odd register value that is no `EXC_RETURN` goes to the value with bit 0 cleared; `GOSUB Rm` reads its
target before it writes `LR`, and has no exception return (R28, R195, R196, R198, R311). -/
def Obligations.RegisterBranchesReachOddTargets : Prop :=
  ∀ (s : State) (rm : BitVec 4), rm ≠ 15 →
    ((s.reg rm).getLsbD 0 = true → ordinaryTarget s (s.reg rm) →
      exec (.gotoReg rm) s = .next { s with pc := s.reg rm &&& ~~~1#32 }) ∧
    ((s.reg rm).getLsbD 0 = true →
      exec (.gosubReg rm) s = .next { s with lr := (s.pc + 2) ||| 1, pc := s.reg rm &&& ~~~1#32 }) ∧
    (s.lr.getLsbD 0 = true → ordinaryTarget s s.lr → exec .ret s = .next { s with pc := s.lr &&& ~~~1#32 })

/-- A register branch to an even value that is no `EXC_RETURN` is the trap `InvalidState` with the value, reported at
the branch, `LR` unwritten; as a HardFault its return address is the destination. `GOTO PC` and `GOSUB PC` are refused
(R28, R195, R196, R198, R293, R294, R309). That the test for an `EXC_RETURN` comes before that of bit 0 is the model's
choice (notes/assumptions/17). -/
def Obligations.RegisterBranchesToEvenValuesTrap : Prop :=
  ∀ (s : State) (rm : BitVec 4),
    (rm ≠ 15 → (s.reg rm).getLsbD 0 = false → ordinaryTarget s (s.reg rm) →
      (s.cfg.trapModel = .terminal → exec (.gotoReg rm) s = .fault (.invalidState (s.reg rm) s.pc s)) ∧
      BecomesHardFault (exec (.gotoReg rm) s) s (s.reg rm)) ∧
    (rm ≠ 15 → (s.reg rm).getLsbD 0 = false →
      (s.cfg.trapModel = .terminal → exec (.gosubReg rm) s = .fault (.invalidState (s.reg rm) s.pc s)) ∧
      BecomesHardFault (exec (.gosubReg rm) s) s (s.reg rm)) ∧
    (s.lr.getLsbD 0 = false → ordinaryTarget s s.lr →
      (s.cfg.trapModel = .terminal → exec .ret s = .fault (.invalidState s.lr s.pc s)) ∧
      BecomesHardFault (exec .ret s) s s.lr) ∧
    exec (.gotoReg 15) s = .refused .gotoPc ∧ exec (.gosubReg 15) s = .refused .gosubPc

/-! ### Stack and multiple registers -/

/-- `PUSH` of N registers to plain memory: `SP` goes down by 4·N, the lowest-numbered register is at the lowest address
and `LR` at the highest, every byte outside the N words is kept, and so is all else but `pc` (R210). -/
def Obligations.PushStoresTheListDownwards : Prop :=
  ∀ (s : State) (list : BitVec 9),
    let low := list.setWidth 8
    let n := listCount low + (if list.getLsbD 8 then 1 else 0)
    let base := s.sp - BitVec.ofNat 32 (4 * n)
    list ≠ 0 → s.sp &&& 3#32 = 0 → plainWords s .write base n →
      ∃ t, exec (.push list) s = .next t ∧
        (∀ r : BitVec 3, low.getLsbD r.toNat = true → wordAt t (wordUp base (below low r)) = s.lo r) ∧
        (list.getLsbD 8 = true → wordAt t (s.sp - 4) = s.lr) ∧
        sameOutside s t base (4 * n) ∧ marked s t base (4 * n) ∧
        t = { withStack s base with mem := t.mem, dirty := t.dirty, pc := s.pc + 2 }

/-- `POP` of N registers from plain memory: each listed register gets its word from the lowest address up, `SP` goes
up by 4·N; with `PC` in the list the last word, odd and no `EXC_RETURN`, is the new `pc` with bit 0 cleared; nothing
is stored and all else is kept. An even last word that is no `EXC_RETURN` is the trap `InvalidState`, as a HardFault
with the destination as return address: `SP`, `pc`, the flags, memory and every register that is not listed keep their
values (R211, R293, R294, R309). That the listed registers hold any value after the even PC's trap follows R211 and
R293 (notes/assumptions/35); that the test for an `EXC_RETURN` comes before that of bit 0 is the model's choice
(notes/assumptions/17). -/
def Obligations.PopLoadsTheListUpwards : Prop :=
  ∀ (s : State) (list : BitVec 9),
    let low := list.setWidth 8
    let n := listCount low + (if list.getLsbD 8 then 1 else 0)
    let target := wordAt s (wordUp s.sp (listCount low))
    list ≠ 0 → s.sp &&& 3#32 = 0 → plainWords s .read s.sp n →
    ((list.getLsbD 8 = true → target.getLsbD 0 = true ∧ ordinaryTarget s target) →
      ∃ t, exec (.pop list) s = .next t ∧
        (∀ r : BitVec 3, t.lo r =
          if low.getLsbD r.toNat then wordAt s (wordUp s.sp (below low r)) else s.lo r) ∧
        sameHigh s t ∧
        t = { withStack s (s.sp + BitVec.ofNat 32 (4 * n)) with
          regs := t.regs, pc := if list.getLsbD 8 then target &&& ~~~1#32 else s.pc + 2 }) ∧
    (list.getLsbD 8 = true → target.getLsbD 0 = false → ordinaryTarget s target →
      ∃ t, Traps (exec (.pop list) s) (.invalidState target s.pc t) t target ∧
        (∀ r : BitVec 3, low.getLsbD r.toNat = false → t.lo r = s.lo r) ∧ sameHigh s t ∧
        t = { s with regs := t.regs, freeIdx := t.freeIdx })

/-- `PUSH` then `POP` of one list: whatever the registers hold in between, the listed registers, the stack pointer and,
with `LR` pushed and `PC` popped, the way back are restored (R210, R211). -/
def Obligations.PopUndoesPush : Prop :=
  ∀ (s t : State) (list : BitVec 9) (between : Vector Word 13),
    let low := list.setWidth 8
    let n := listCount low + (if list.getLsbD 8 then 1 else 0)
    let base := s.sp - BitVec.ofNat 32 (4 * n)
    s.sp &&& 3#32 = 0 → plainWords s .write base n → plainWords s .read base n →
    (list.getLsbD 8 = true → s.lr.getLsbD 0 = true ∧ ordinaryTarget s s.lr) →
    exec (.push list) s = .next t →
      ∃ u, exec (.pop list) { t with regs := between } = .next u ∧
        (∀ r : BitVec 3, u.lo r = if low.getLsbD r.toNat then s.lo r else between[r.toNat]'(by omega)) ∧
        u.sp = s.sp ∧ u.mem = t.mem ∧ u.pc = if list.getLsbD 8 then s.lr &&& ~~~1#32 else s.pc + 4

/-- `LDM` from plain memory: each listed register gets its word from the base up; a base that is not listed advances by
4·N, a listed one keeps the word loaded for it; nothing is stored and all else is kept (R240). -/
def Obligations.LoadMultipleFillsTheList : Prop :=
  ∀ (s : State) (rn : BitVec 3) (list : BitVec 8),
    list ≠ 0 → (s.lo rn).toNat % 4 = 0 → plainWords s .read (s.lo rn) (listCount list) →
      ∃ t, exec (.ldm rn list) s = .next t ∧
        (∀ r : BitVec 3, t.lo r =
          if list.getLsbD r.toNat then wordAt s (wordUp (s.lo rn) (below list r))
          else if r = rn then wordUp (s.lo rn) (listCount list) else s.lo r) ∧
        sameHigh s t ∧ t = { s with regs := t.regs, pc := s.pc + 2 }

/-- `STM` to plain memory: the listed registers' values stand from the base up, the base advances by 4·N, every byte
outside the N words is kept, and so is all else but `pc` (R241). -/
def Obligations.StoreMultipleStoresTheList : Prop :=
  ∀ (s : State) (rn : BitVec 3) (list : BitVec 8),
    list ≠ 0 → (list.getLsbD rn.toNat = true → ∀ j < rn.toNat, list.getLsbD j = false) →
    (s.lo rn).toNat % 4 = 0 → plainWords s .write (s.lo rn) (listCount list) →
      ∃ t, exec (.stm rn list) s = .next t ∧
        (∀ r : BitVec 3, list.getLsbD r.toNat = true → wordAt t (wordUp (s.lo rn) (below list r)) = s.lo r) ∧
        sameOutside s t (s.lo rn) (4 * listCount list) ∧ marked s t (s.lo rn) (4 * listCount list) ∧
        t = { wroteReg s rn (wordUp (s.lo rn) (listCount list)) with mem := t.mem, dirty := t.dirty }

/-- The multiple transfers stop where the spec refuses: an empty list, and `STM` with the base in the list above a lower
register (R210, R211, R240, R241). A misaligned base of `LDM` or `STM` is the trap `UnalignedAccess` before any access,
and an aligned word that MemMap does not admit the trap `BusFault` with its address: of `POP` and `LDM` the base is
kept, of `STM` the stores already made stay, of `PUSH` only the words of its slots may have changed (R56, R58, R291,
R293, R294, R306). -/
def Obligations.MultipleTransfersStop : Prop :=
  ∀ (s : State) (rn : BitVec 3) (list : BitVec 8) (plist : BitVec 9) (j k : Nat),
    let count := listCount (plist.setWidth 8) + (if plist.getLsbD 8 then 1 else 0)
    let base := s.sp - BitVec.ofNat 32 (4 * count)
    let lost : State → BitVec 8 → Prop := fun t l =>
      (∀ r : BitVec 3, l.getLsbD r.toNat = false → t.lo r = s.lo r) ∧ sameHigh s t ∧
        t = { s with regs := t.regs, freeIdx := t.freeIdx }
    exec (.push 0) s = .refused .emptyList ∧ exec (.pop 0) s = .refused .emptyList ∧
    exec (.ldm rn 0) s = .refused .emptyList ∧ exec (.stm rn 0) s = .refused .emptyList ∧
    (list.getLsbD rn.toNat = true → j < rn.toNat → list.getLsbD j = true →
      exec (.stm rn list) s = .refused .stmBaseNotLowest) ∧
    (list ≠ 0 → (s.lo rn).toNat % 4 ≠ 0 →
      (∃ t, Traps (exec (.ldm rn list) s) (.unalignedAccess (s.lo rn) s.pc t) t s.pc ∧ t.lo rn = s.lo rn ∧
        lost t list) ∧
      ((list.getLsbD rn.toNat = true → ∀ j < rn.toNat, list.getLsbD j = false) →
        Traps (exec (.stm rn list) s) (.unalignedAccess (s.lo rn) s.pc s) s s.pc)) ∧
    ((s.lo rn).toNat % 4 = 0 → blockedAt s .read (s.lo rn) (listCount list) k →
      ∃ t, Traps (exec (.ldm rn list) s) (.busFault (wordUp (s.lo rn) k) .read s.pc t) t s.pc ∧ t.lo rn = s.lo rn ∧
        lost t list) ∧
    ((list.getLsbD rn.toNat = true → ∀ j < rn.toNat, list.getLsbD j = false) →
      (s.lo rn).toNat % 4 = 0 → blockedAt s .write (s.lo rn) (listCount list) k →
      ∃ t, Traps (exec (.stm rn list) s) (.busFault (wordUp (s.lo rn) k) .write s.pc t) t s.pc ∧
        (∀ r : BitVec 3, list.getLsbD r.toNat = true → below list r < k →
          wordAt t (wordUp (s.lo rn) (below list r)) = s.lo r) ∧
        sameOutside s t (s.lo rn) (4 * k) ∧ marked s t (s.lo rn) (4 * k) ∧
        t = { s with mem := t.mem, dirty := t.dirty }) ∧
    (s.sp &&& 3#32 = 0 → blockedAt s .read s.sp count k →
      ∃ t, Traps (exec (.pop plist) s) (.busFault (wordUp s.sp k) .read s.pc t) t s.pc ∧ lost t (plist.setWidth 8)) ∧
    (s.sp &&& 3#32 = 0 → k < count → s.accessClass .write (wordUp base k) .word = none →
      (∀ m < count, s.accessClass .write (wordUp base m) .word = some .plain ∨
        s.accessClass .write (wordUp base m) .word = none) →
      ∃ t m, m < count ∧ s.accessClass .write (wordUp base m) .word = none ∧
        Traps (exec (.push plist) s) (.busFault (wordUp base m) .write s.pc t) t s.pc ∧
        sameOutside s t base (4 * count) ∧
        t = { s with mem := t.mem, dirty := t.dirty, freeIdx := t.freeIdx })

/-! ### Byte operations -/

/-- `REV`, `REV16`, `REVSH` and the four extensions write their bytes, and no flag (R225 to R227, R265 to R268). -/
def Obligations.ByteOperationsRearrangeBytes : Prop :=
  ∀ (s : State) (rd rm : BitVec 3),
    let v := s.lo rm
    let byte : Nat → Nat := fun k => v.toNat / 2 ^ (8 * k) % 256
    exec (.rev rd rm) s =
      .next (wroteReg s rd (BitVec.ofNat 32 (byte 0 * 2 ^ 24 + byte 1 * 2 ^ 16 + byte 2 * 2 ^ 8 + byte 3))) ∧
    exec (.rev16 rd rm) s =
      .next (wroteReg s rd (BitVec.ofNat 32 (byte 2 * 2 ^ 24 + byte 3 * 2 ^ 16 + byte 0 * 2 ^ 8 + byte 1))) ∧
    exec (.revsh rd rm) s =
      .next (wroteReg s rd (BitVec.ofInt 32 (BitVec.ofNat 16 (byte 0 * 2 ^ 8 + byte 1)).toInt)) ∧
    exec (.sxtb rd rm) s = .next (wroteReg s rd (BitVec.ofInt 32 (BitVec.ofNat 8 v.toNat).toInt)) ∧
    exec (.sxth rd rm) s = .next (wroteReg s rd (BitVec.ofInt 32 (BitVec.ofNat 16 v.toNat).toInt)) ∧
    exec (.uxtb rd rm) s = .next (wroteReg s rd (BitVec.ofNat 32 (v.toNat % 2 ^ 8))) ∧
    exec (.uxth rd rm) s = .next (wroteReg s rd (BitVec.ofNat 32 (v.toNat % 2 ^ 16)))

/-! ### System instructions -/

/-- `CPSID` sets `PM`, `CPSIE` clears it, `SEV` sets the event register, the barriers and `YIELD` change nothing a
program can read, `ISB` ends the window of R67 (R251, R252, R269 to R271, R274, R276). -/
def Obligations.MaskEventAndBarrierInstructions : Prop :=
  ∀ (s : State) (option : BitVec 4),
    exec .cpsid s = .next { s with pm := true, pc := s.pc + 2 } ∧
    exec .cpsie s = .next { s with pm := false, pc := s.pc + 2 } ∧
    exec .sev s = .next { s with eventReg := true, pc := s.pc + 2 } ∧
    exec .yieldHint s = .next { s with pc := s.pc + 2 } ∧
    exec (.dmb option) s = .next { s with pc := s.pc + 4 } ∧
    exec (.dsb option) s = .next { s with pc := s.pc + 4 } ∧
    exec (.isb option) s = .next { s with dirty := [], pc := s.pc + 4 }

/-- `WFI` and `WFE` go on at `pc + 2` when a wake-up has come, and hold at their own `pc` otherwise; `WFE` does not
wait when the event register is set, and clears it. A held processor goes on when a wake-up, an interrupt or, for `WFE`,
an event comes, which stays in the event register, and holds otherwise. An interrupt wakes exactly when it would be
taken if `PM` were 0 (R41, R253, R275, R301). That a hold is a next state at the same pc is the model's choice
(notes/assumptions/12). -/
def Obligations.WaitsHoldUntilWoken : Prop :=
  ∀ (s : State) (w : Wait),
    (s.wakeUp = true ∨ s.interruptWakes = true →
      exec .wfi s = .next { s with waiting := none, pc := s.pc + 2 } ∧
      (s.eventReg = false → exec .wfe s = .next { s with waiting := none, pc := s.pc + 2 })) ∧
    (s.wakeUp = false → s.interruptWakes = false →
      exec .wfi s = .next { s with waiting := some .wfi } ∧
      (s.eventReg = false → exec .wfe s = .next { s with waiting := some .wfe })) ∧
    (s.eventReg = true → exec .wfe s = .next { s with waiting := none, eventReg := false, pc := s.pc + 2 }) ∧
    (let b := s.boundary
     b.scs.resetRequest = false → b.lockup = false → b.waiting = some w →
      (b.wakeUp = true ∨ b.interruptWakes = true ∨ (w = .wfe ∧ b.eventReg = true) →
        step s = .next { b with waiting := none, pc := b.pc + 2 }) ∧
      (b.wakeUp = false → b.interruptWakes = false → (w = .wfe → b.eventReg = false) → step s = .next b)) ∧
    (s.interruptWakes = true ↔
      ∃ n ∈ s.pendingExceptions, exceptionPriority s.scs n < State.execPriority { s with pm := false })

/-- `Rd = spec_reg` writes the content of the special register of its number and nothing else but `pc`; a reserved
number, `SP` and `PC` are refused (R35 to R38, R40, R272). -/
def Obligations.SpecialRegisterReads : Prop :=
  ∀ (s : State) (rd : BitVec 4) (sysm : BitVec 8),
    (rd = 13 ∨ rd = 15 → exec (.mrs rd sysm) s = .refused .specialWithSpOrPc) ∧
    (rd ≠ 13 → rd ≠ 15 →
      exec (.mrs rd sysm) s =
        match specialContent s sysm.toNat with
        | some v => .next { withRegister s rd v with pc := s.pc + 4 }
        | none => .refused .reservedSpecial)

/-- `spec_reg = Rd` writes the special register of its number and nothing else but `pc`: the flags, `MSP` and `PSP` with
bits [1:0] cleared, `PM`, `SPSEL` in Thread mode; a reserved number, `SP` and `PC` are refused (R35 to R38, R40,
R273). -/
def Obligations.SpecialRegisterWrites : Prop :=
  ∀ (s : State) (rn : BitVec 4) (sysm : BitVec 8),
    (rn = 13 ∨ rn = 15 → exec (.msr rn sysm) s = .refused .specialWithSpOrPc) ∧
    (rn ≠ 13 → rn ≠ 15 →
      exec (.msr rn sysm) s =
        match specialWritten s (s.reg rn) sysm.toNat with
        | some t => .next { t with pc := s.pc + 4 }
        | none => .refused .reservedSpecial)

/-! ### Traps and exceptions -/

/-- With `TRAP_MODEL = terminal` a trap ends the run with its cause, its info and the reported pc, the address after it
for `SVC`, and the state as it was (R254, R255, R291, R292). -/
def Obligations.TerminalTrapsReportTheirCause : Prop :=
  ∀ (s : State) (u8 : BitVec 8) (a : Word) (k : AccessKind) (h : Half) (h2 : Option Half),
    s.cfg.trapModel = .terminal →
    exec (.svc u8) s = .fault (.svCall u8 (s.pc + 2) s) ∧
    exec (.bkpt u8) s = .fault (.breakpoint u8 s.pc s) ∧
    raise (.undefinedInstruction h h2) s = .fault (.undefinedInstruction h h2 s.pc s) ∧
    raise (.unalignedAccess a) s = .fault (.unalignedAccess a s.pc s) ∧
    raise (.busFault a k) s = .fault (.busFault a k s.pc s) ∧
    raise (.invalidState a) s = .fault (.invalidState a s.pc s)

/-- Traps are precise with `TRAP_MODEL = terminal`: the trapping instruction has written no flag, no stack pointer, not
`LR` and not `pc`; only `POP` and `LDM` leave low registers without their values, only `PUSH` and `STM` memory: of a
`PUSH` no byte outside its slots, of an `STM` exactly the stores it had made (R293). -/
def Obligations.TerminalTrapsArePrecise : Prop :=
  ∀ (s : State) (i : Instr) (f : Fault), exec i s = .fault f →
    let t := faultState f
    t.flags = s.flags ∧ t.lr = s.lr ∧ t.msp = s.msp ∧ t.psp = s.psp ∧ t.pc = s.pc ∧ t.pm = s.pm ∧
    t.spsel = s.spsel ∧ t.mode = s.mode ∧ t.ipsr = s.ipsr ∧ t.active = s.active ∧ sameHigh s t ∧
    ((∀ list, i ≠ .pop list) → (∀ rn list, i ≠ .ldm rn list) → t.regs = s.regs) ∧
    ((∀ list, i ≠ .push list) → (∀ rn list, i ≠ .stm rn list) → t.mem = s.mem) ∧
    (∀ rn list, i = .ldm rn list → t.lo rn = s.lo rn) ∧
    (∀ list, i = .push list →
      ∀ a : Nat, (∀ slot ∈ s.pushSlots list, ∀ k < 4, a ≠ (slot.1 + BitVec.ofNat 32 k).toNat) →
        t.mem.read a = s.mem.read a) ∧
    (∀ rn list, i = .stm rn list →
      sameOutside s t (s.lo rn) (4 * listCount list) ∧
      ∃ k < listCount list, writeWords (s.lo rn) ((s.values (listedRegs list)).take k) s = .ok () t)

/-- The entry of an exception whose frame and vector are in plain memory: R309's stores, registers, mode and vector. What
R309 does not name is the model's: the list of active exceptions grows by the exception (notes/assumptions/33), the
marks of stored code are dropped (notes/assumptions/16), it ends a wait and Lockup (notes/assumptions/32), and the
exception is no longer pending (R308). An entry with a word that MemMap does not admit becomes that of a HardFault with
the same return address; where that fails too, in a HardFault's own entry, and at priority −1 or −2 it is Lockup (R306,
R313). That the exception is then no longer pending and what such a Lockup keeps is the model's choice
(notes/assumptions/18 and 32). -/
def Obligations.ExceptionEntryStacksTheFrame : Prop :=
  ∀ (s : State) (n : Nat) (ret : Word), n < 48 →
    let t := takeException n ret s
    let u := { s with scs := s.scs.clearPending n }
    (EntryPossible s n → Entered s t n ret) ∧
    (EntryBlocked s n →
      (n = 3 ∨ s.execPriority ≤ -1 ∨ EntryBlocked s 3 → LockedInEntry u t) ∧
      (n ≠ 3 → -1 < s.execPriority → EntryPossible s 3 → Entered u t 3 ret))

/-- `SVC` with a priority that allows it takes exception 11 with the next instruction as return address; `BKPT`, and
an `SVC` whose priority does not allow it, become a HardFault; at priority −1 or −2 they are Lockup (R254, R255, R302,
R306, R309). That `BKPT` has no other outcome is the model's reading of R306 with no debugger (notes/assumptions/25);
the return address of an SVC that becomes a HardFault is the model's choice (notes/assumptions/19). -/
def Obligations.CallsAndBreakpointsTakeTheirException : Prop :=
  ∀ (s : State) (u8 : BitVec 8), s.cfg.trapModel = .armv6m →
    (exceptionPriority s.scs 11 < s.execPriority → EntryPossible s 11 →
      ∃ t, exec (.svc u8) s = .next t ∧ Entered s t 11 (s.pc + 2)) ∧
    (s.execPriority ≤ exceptionPriority s.scs 11 → BecomesHardFault (exec (.svc u8) s) s s.pc) ∧
    BecomesHardFault (exec (.bkpt u8) s) s s.pc ∧
    (s.execPriority ≤ -1 →
      exec (.bkpt u8) s = .next { s with lockup := true } ∧ exec (.svc u8) s = .next { s with lockup := true })

/-- The four faults become HardFault with the faulting instruction as return address, for `InvalidState` the
destination, or Lockup at priority −1 or −2 or where the HardFault's entry fails; a processor in Lockup goes nowhere
until a reset, or an NMI of higher priority, which it takes (R306, R309, R313). An instruction that would begin with
`T` = 0 is the trap `InvalidState`, as after a reset in Thread mode a HardFault and from there Lockup (R332). The
return address of InvalidState, the form of Lockup, where `T` = 0 counts as left by a reset and that it is tested
before any fetch are the model's (notes/assumptions/20 and 32), as is the return address of an NMI from Lockup
(notes/assumptions/32). -/
def Obligations.FaultsBecomeHardFaultOrLockup : Prop :=
  ∀ (s : State) (h : Half) (h2 : Option Half) (a : Word) (k : AccessKind),
    BecomesHardFault (raise (.undefinedInstruction h h2) s) s s.pc ∧
    BecomesHardFault (raise (.unalignedAccess a) s) s s.pc ∧
    BecomesHardFault (raise (.busFault a k) s) s s.pc ∧
    BecomesHardFault (raise (.invalidState a) s) s (a &&& ~~~1#32) ∧
    (s.cfg.trapModel = .armv6m → s.execPriority ≤ -1 →
      raise (.undefinedInstruction h h2) s = .next { s with lockup := true } ∧
      raise (.unalignedAccess a) s = .next { s with lockup := true } ∧
      raise (.busFault a k) s = .next { s with lockup := true } ∧
      raise (.invalidState a) s = .next { s with lockup := true }) ∧
    (s.cfg.trapModel = .armv6m → -1 < s.execPriority → EntryBlocked s 3 →
      ∃ t, LockedInEntry s t ∧
        raise (.undefinedInstruction h h2) s = .next t ∧ raise (.unalignedAccess a) s = .next t ∧
        raise (.busFault a k) s = .next t) ∧
    (s.cfg.trapModel = .armv6m → -1 < s.execPriority → EntryBlocked s 3 →
      ∃ t, LockedInEntry s t ∧ raise (.invalidState a) s = .next t) ∧
    (let b := s.boundary
     b.lockup = true → b.scs.resetRequest = false →
      (b.scs.nmiPending = false ∨ b.cfg.trapModel = .terminal ∨ b.execPriority ≤ -2 → step s = .next b) ∧
      (b.scs.nmiPending = true → b.cfg.trapModel = .armv6m → -2 < b.execPriority → EntryPossible b 2 →
        ∃ t, step s = .next t ∧ Entered b t 2 b.pc)) ∧
    (let b := s.boundary
     b.scs.resetRequest = false → b.lockup = false → b.waiting = none → b.epsrT = false →
      (b.cfg.trapModel = .terminal → step s = .fault (.invalidState b.pc b.pc b)) ∧
      (b.exceptionToTake = none →
        (b.mode = .handler → BecomesHardFault (step s) b (b.pc &&& ~~~1#32)) ∧
        (b.mode = .thread → b.cfg.trapModel = .armv6m → -1 < b.execPriority → EntryPossible b 3 →
          ∃ t, step s = .next { t with lockup := true } ∧ Entered b t 3 (b.pc &&& ~~~1#32))))

/-- R311: in Handler mode `GOTO Rm`, `RET` and `POP` with `PC` of a legal `EXC_RETURN` restore the frame, choose the
mode and the stack, and keep `PM`. With each of the three a value that is not legal, a frame that cannot be read and
one whose stacked `T` is 0 become a HardFault at the branch, for `POP` in the state after its loads, or Lockup at
priority −1 or −2 (R306, R313). The return address of that HardFault, what a `POP` has done before it and that an even
value with bits [31:28] = 1111 is such a failed return, and not `InvalidState`, are the model's choice
(notes/assumptions/17), and which active exception ends is the model's reading of R308 and R312
(notes/assumptions/33). -/
def Obligations.ExceptionReturnRestoresTheFrame : Prop :=
  ∀ (s : State) (rm : BitVec 4) (list : BitVec 9),
    (rm ≠ 15 → ReturnPossible s (s.reg rm) → exec (.gotoReg rm) s = .next (returned s (s.reg rm))) ∧
    (ReturnPossible s s.lr → exec .ret s = .next (returned s s.lr)) ∧
    (let low := list.setWidth 8
     let exc := wordAt s (wordUp s.sp (listCount low))
     ∀ u : State, list.getLsbD 8 = true → s.sp &&& 3#32 = 0 → plainWords s .read s.sp (listCount low + 1) →
      (∀ r : BitVec 3, u.lo r =
        if low.getLsbD r.toNat then wordAt s (wordUp s.sp (below low r)) else s.lo r) → sameHigh s u →
      u = { withStack s (wordUp s.sp (listCount low + 1)) with regs := u.regs } →
      (ReturnPossible u exc → exec (.pop list) s = .next (returned u exc)) ∧
      (ReturnFails u exc → BecomesHardFault (exec (.pop list) s) u s.pc ∧
        (u.execPriority ≤ -1 → exec (.pop list) s = .next { u with lockup := true }))) ∧
    (rm ≠ 15 → ReturnFails s (s.reg rm) → BecomesHardFault (exec (.gotoReg rm) s) s s.pc ∧
      (s.execPriority ≤ -1 → exec (.gotoReg rm) s = .next { s with lockup := true })) ∧
    (ReturnFails s s.lr → BecomesHardFault (exec .ret s) s s.pc ∧
      (s.execPriority ≤ -1 → exec .ret s = .next { s with lockup := true }))

/-- The return from an exception undoes its entry: when the handler returns with the `EXC_RETURN` it was given, every
register, the flags, `pc`, both stack pointers, the mode and the active exceptions are as before (R309, R311). That the
active exceptions are a list which entry and return keep is the model's (notes/assumptions/33). -/
def Obligations.ReturnUndoesEntry : Prop :=
  ∀ (s : State) (n : Nat), n < 48 → s.Inv → s.epsrT = true → s.cfg.trapModel = .armv6m → EntryPossible s n →
    plainWords s .read (frameOf s) 8 →
      let t := takeException n s.pc s
      exec .ret t = .next { s with
        mem := t.mem, dirty := [], eventReg := true, scs := s.scs.clearPending n, waiting := none, lockup := false }

/-- Which exception is taken at a boundary: one that is pending and enabled, of the highest priority among them, the
lowest number among equals, and of higher priority than the execution priority; and one is taken whenever there is such.
The priorities are those of the table, and the execution priority is that of the highest active handler, 0 with `PM` if
that is higher, and below every exception's with no handler active and `PM` 0 (R305, R308). -/
def Obligations.HighestPriorityPendingExceptionIsTaken : Prop :=
  ∀ s : State,
    (∀ n, n ∈ s.pendingExceptions ↔
      (n = 2 ∧ s.scs.nmiPending = true) ∨ (n = 14 ∧ s.scs.pendSvPending = true) ∨
      (n = 15 ∧ s.scs.sysTickPending = true) ∨
      (16 ≤ n ∧ n < 48 ∧ s.scs.irqPending.getLsbD (n - 16) = true ∧ s.scs.irqEnable.getLsbD (n - 16) = true)) ∧
    (∀ n, s.exceptionToTake = some n → n ∈ s.pendingExceptions ∧
      exceptionPriority s.scs n < s.execPriority ∧
      ∀ m ∈ s.pendingExceptions, exceptionPriority s.scs n ≤ exceptionPriority s.scs m ∧
        (exceptionPriority s.scs n = exceptionPriority s.scs m → n ≤ m)) ∧
    (s.exceptionToTake = none → ∀ m ∈ s.pendingExceptions, s.execPriority ≤ exceptionPriority s.scs m) ∧
    (exceptionPriority s.scs 1 = -3 ∧ exceptionPriority s.scs 2 = -2 ∧ exceptionPriority s.scs 3 = -1 ∧
      exceptionPriority s.scs 11 = 64 * s.scs.svcPriority.toNat ∧
      exceptionPriority s.scs 14 = 64 * s.scs.pendSvPriority.toNat ∧
      exceptionPriority s.scs 15 = 64 * s.scs.sysTickPriority.toNat ∧
      ∀ k : Fin 32, exceptionPriority s.scs (16 + k.val) = 64 * (s.scs.irqPriority[k.val]).toNat) ∧
    (∀ e ∈ s.active, s.execPriority ≤ exceptionPriority s.scs e) ∧
    (s.pm = true → s.execPriority ≤ 0) ∧
    ((∃ e ∈ s.active, s.execPriority = exceptionPriority s.scs e) ∨ (s.pm = true ∧ s.execPriority = 0) ∨
      (s.active = [] ∧ s.pm = false)) ∧
    (s.active = [] → s.pm = false →
      ∀ n, n ∈ [1, 2, 3, 11, 14, 15] ∨ (16 ≤ n ∧ n < 48) → exceptionPriority s.scs n < s.execPriority)

/-- A pending exception that is due is taken by the next step, before any fetch, with the next instruction's address as
return address; with `PM` = 1 only NMI can be (R295, R300, R302, R308, R309). That the entry is a step of its own is the
model's choice (notes/assumptions/11). -/
def Obligations.PendingExceptionsAreTakenBetweenInstructions : Prop :=
  ∀ (s : State) (n : Nat), s.boundary.cfg.trapModel = .armv6m → s.boundary.scs.resetRequest = false →
    s.boundary.lockup = false → s.boundary.waiting = none → s.boundary.exceptionToTake = some n →
    step s = .next (takeException n s.boundary.pc s.boundary) ∧
    (EntryPossible s.boundary n → ∃ t, step s = .next t ∧ Entered s.boundary t n s.boundary.pc) ∧
    (s.boundary.pm = true → n = 2)

/-- An instruction changes the mode only by exception entry and return: with `TRAP_MODEL = terminal` none changes the
mode, the exception number or `T`; an instruction leads from Thread to Handler mode only by the entry of SVCall or
HardFault, with `EXC_RETURN` in `LR`, and back only by `GOTO Rm`, `RET` or `POP` of an `EXC_RETURN` for Thread mode
(R292, R296, R309, R311, R320). That the active exceptions are a list is the model's (notes/assumptions/33). -/
def Obligations.OnlyEntryAndReturnChangeTheMode : Prop :=
  ∀ (s t : State) (i : Instr), exec i s = .next t →
    (s.cfg.trapModel = .terminal →
      t.mode = s.mode ∧ t.ipsr = s.ipsr ∧ t.epsrT = s.epsrT ∧ t.active = s.active ∧ t.lockup = s.lockup) ∧
    (s.mode = .thread → t.mode = .handler →
      ∃ n, (n = 3 ∨ n = 11) ∧ t.active = n :: s.active ∧ t.ipsr = BitVec.ofNat 6 n ∧ t.spsel = false ∧
        t.lr = if s.spsel then 0xFFFFFFFD else 0xFFFFFFF9) ∧
    (s.mode = .handler → t.mode = .thread → s.cfg.trapModel = .armv6m ∧ ReturnsToThread s i)

/-- The instructions of the row 'none' of R30 write no flag, in either trap model; a `GOTO Rm`, `RET` or `POP` does so
only as an exception return. `PM` is written by `CPSID`, `CPSIE` and a write of `PRIMASK` only: no entry and no return
changes it (R30, R37, R309, R311). -/
def Obligations.OtherInstructionsKeepFlagsAndMask : Prop :=
  ∀ (s t : State) (i : Instr), exec i s = .next t →
    (i ≠ .cpsid → i ≠ .cpsie → (∀ rn, i ≠ .msr rn 16) → t.pm = s.pm) ∧
    match i with
    | .movReg _ _ | .addHi _ _ | .adr _ _ | .addSp _ _ | .spAdd _ | .spSub _ | .ldrbImm _ _ _ | .ldrhImm _ _ _
    | .ldrImm _ _ _ | .ldrPc _ _ | .ldrbReg _ _ _ | .ldrsbReg _ _ _ | .ldrhReg _ _ _ | .ldrshReg _ _ _
    | .ldrReg _ _ _ | .ldrSp _ _ | .strbImm _ _ _ | .strhImm _ _ _ | .strImm _ _ _ | .strbReg _ _ _
    | .strhReg _ _ _ | .strReg _ _ _ | .strSp _ _ | .ifZero _ | .ifNonZero _ | .ifCond _ _ | .gotoImm _
    | .gosubReg _ | .gosubImm _ | .push _ | .ldm _ _ | .stm _ _ | .rev _ _ | .rev16 _ _ | .revsh _ _ | .sxtb _ _
    | .sxth _ _ | .uxtb _ _ | .uxth _ _ | .cpsid | .cpsie | .wfi | .bkpt _ | .svc _ | .dmb _ | .dsb _ | .isb _
    | .sev | .wfe | .yieldHint | .mrs _ _ => t.flags = s.flags
    | .gotoReg rm => ordinaryTarget s (s.reg rm) → t.flags = s.flags
    | .ret => ordinaryTarget s s.lr → t.flags = s.flags
    | .pop list =>
      (list.getLsbD 8 = true → ∀ vs s1 v, readWords s.sp (popCount list) s = .ok vs s1 →
        vs[listCount (list.setWidth 8)]? = some v → ordinaryTarget s v) → t.flags = s.flags
    | _ => True

/-! ### SysTick and the interrupt controller -/

/-- SysTick counts down and reloads at 0, with `TICKINT` it makes exception 15 pending, and a disabled timer stands still
(R322). That the exception becomes pending at the count from 1 to 0, and not at the reload, is the model's choice; how
many clocks pass between boundaries is free (notes/assumptions/21). -/
def Obligations.SysTickCountsDownAndReloads : Prop :=
  (∀ (t : SysTick) (n : Nat), n ≤ t.current.toNat →
    (SysTick.clocks n t).1.current.toNat = t.current.toNat - n ∧
    ((SysTick.clocks n t).2 = true ↔ n = t.current.toNat ∧ 0 < n)) ∧
  (∀ t : SysTick, t.current = 0 → t.clock.1.current = t.reload ∧ t.clock.2 = false) ∧
  (∀ s : State, s.scs.sysTick.enable = false → s.sysTickRun = s) ∧
  (∀ s : State, s.scs.sysTick.enable = true → ∃ n : Nat,
    s.sysTickRun.scs.sysTick = (SysTick.clocks n s.scs.sysTick).1 ∧
    s.sysTickRun.scs.sysTickPending =
      (s.scs.sysTickPending || ((SysTick.clocks n s.scs.sysTick).2 && s.scs.sysTick.tickInt)))

/-- Words written to the registers of the system control space, and what each write leaves alone: enable and pending bits
are set and cleared by ones, priorities take the top two bits of their byte, `ICSR` makes NMI, PendSV and SysTick
pending, `AIRCR` needs its key, `SYST_CVR` is cleared (R314, R322). That a 0 written to `ICSR` changes nothing, that
`AIRCR` without its key, the read-only registers and the other bits of `ICSR`, `AIRCR` and the rest ignore a write is
the model's (notes/assumptions/22), as is that with `SEVONPEND` each of them that becomes pending is an event; that a
write of `SYST_CVR` clears COUNTFLAG too is notes/assumptions/21. -/
def Obligations.SystemRegisterWritesTakeEffect : Prop :=
  ∀ (s : State) (v : Word) (irq : Fin 32),
    (∃ e, s.writeSystem 0xE000E100 v = some { s with scs := { s.scs with irqEnable := e } } ∧
      ∀ k, e.getLsbD k = (s.scs.irqEnable.getLsbD k || v.getLsbD k)) ∧
    (∃ e, s.writeSystem 0xE000E180 v = some { s with scs := { s.scs with irqEnable := e } } ∧
      ∀ k, e.getLsbD k = (s.scs.irqEnable.getLsbD k && !v.getLsbD k)) ∧
    (∃ p e, s.writeSystem 0xE000E200 v = some { s with scs := { s.scs with irqPending := p }, eventReg := e } ∧
      (∀ k, p.getLsbD k = (s.scs.irqPending.getLsbD k || v.getLsbD k)) ∧
      (e = true ↔ s.eventReg = true ∨ s.scs.sevOnPend = true ∧
        ∃ k, p.getLsbD k = true ∧ s.scs.irqPending.getLsbD k = false)) ∧
    (∃ p, s.writeSystem 0xE000E280 v = some { s with scs := { s.scs with irqPending := p } } ∧
      ∀ k, p.getLsbD k = (s.scs.irqPending.getLsbD k && !v.getLsbD k)) ∧
    (∃ p, s.writeSystem (0xE000E400 + BitVec.ofNat 32 (irq.val / 4 * 4)) v =
        some { s with scs := { s.scs with irqPriority := p } } ∧
      (p[irq.val]).toNat = v.toNat / 2 ^ (8 * (irq.val % 4) + 6) % 4 ∧
      ∀ k : Fin 32, k.val / 4 ≠ irq.val / 4 → p[k.val] = s.scs.irqPriority[k.val]) ∧
    (∃ a b c e, s.writeSystem 0xE000ED04 v =
        some { s with
          scs := { s.scs with nmiPending := a, pendSvPending := b, sysTickPending := c }, eventReg := e } ∧
      a = (s.scs.nmiPending || v.getLsbD 31) ∧ b = (s.scs.pendSvPending || v.getLsbD 28) ∧
      c = (s.scs.sysTickPending || v.getLsbD 26) ∧
      (e = true ↔ s.eventReg = true ∨ s.scs.sevOnPend = true ∧
        (a ≠ s.scs.nmiPending ∨ b ≠ s.scs.pendSvPending ∨ c ≠ s.scs.sysTickPending))) ∧
    s.writeSystem 0xE000ED0C v =
      some { s with scs := { s.scs with
        resetRequest := s.scs.resetRequest || (v.toNat / 2 ^ 16 == 0x05FA && v.getLsbD 2) } } ∧
    s.writeSystem 0xE000ED10 v =
      some { s with scs := { s.scs with
        sleepOnExit := v.getLsbD 1, sleepDeep := v.getLsbD 2, sevOnPend := v.getLsbD 4 } } ∧
    s.writeSystem 0xE000ED1C v =
      some { s with scs := { s.scs with svcPriority := BitVec.ofNat 2 (v.toNat / 2 ^ 30) } } ∧
    s.writeSystem 0xE000ED20 v =
      some { s with scs := { s.scs with
        sysTickPriority := BitVec.ofNat 2 (v.toNat / 2 ^ 30)
        pendSvPriority := BitVec.ofNat 2 (v.toNat / 2 ^ 22) } } ∧
    s.writeSystem 0xE000E010 v =
      some { s with scs := { s.scs with sysTick := { s.scs.sysTick with
        enable := v.getLsbD 0, tickInt := v.getLsbD 1, clkSource := v.getLsbD 2 } } } ∧
    s.writeSystem 0xE000E014 v =
      some { s with scs := { s.scs with sysTick := { s.scs.sysTick with reload := BitVec.ofNat 24 v.toNat } } } ∧
    s.writeSystem 0xE000E018 v =
      some { s with scs := { s.scs with sysTick := { s.scs.sysTick with current := 0, countFlag := false } } } ∧
    s.writeSystem 0xE000E01C v = some s ∧ s.writeSystem 0xE000ED00 v = some s ∧ s.writeSystem 0xE000ED14 v = some s

end
end

