-- ==== Sys2Proof/Laws/Decode.lean ====
section
/-! SUPPORT. Laws of the encoding: the fields of each format, and the bytes of a halfword. -/

namespace Sys2Proof

/-! ### Fields of a concatenation -/

theorem extract_append_high {a b : Nat} (x : BitVec a) (y : BitVec b) (s l : Nat) :
    (x ++ y).extractLsb' (b + s) l = x.extractLsb' s l := by
  apply BitVec.eq_of_getLsbD_eq
  intro i hi
  simp only [BitVec.getLsbD_extractLsb', hi, decide_true, Bool.true_and, BitVec.getLsbD_append]
  rw [if_neg (by omega)]
  congr 1
  omega

theorem extract_append_low {a b : Nat} (x : BitVec a) (y : BitVec b) (s l : Nat) (h : s + l ≤ b) :
    (x ++ y).extractLsb' s l = y.extractLsb' s l := by
  apply BitVec.eq_of_getLsbD_eq
  intro i hi
  simp only [BitVec.getLsbD_extractLsb', hi, decide_true, Bool.true_and, BitVec.getLsbD_append]
  rw [if_pos (by omega)]

theorem extract_all {a : Nat} (x : BitVec a) : x.extractLsb' 0 a = x := by
  apply BitVec.eq_of_getLsbD_eq
  intro i hi
  simp [hi]

theorem append_extract_eq {a b : Nat} (x : BitVec (a + b)) : x.extractLsb' b a ++ x.extractLsb' 0 b = x := by
  apply BitVec.eq_of_getLsbD_eq
  intro i hi
  simp only [BitVec.getLsbD_append, BitVec.getLsbD_extractLsb']
  split
  · next h => simp [h]
  · next h =>
    have h2 : i - b < a := by omega
    have h3 : b + (i - b) = i := by omega
    simp [h2, h3]

/-! ### The formats -/

@[simp] theorem formatSHI_extract_11_5 (op u5 : BitVec 5) (rm rd : BitVec 3) :
    (formatSHI op u5 rm rd).extractLsb' 11 5 = op :=
  (extract_append_high (op ++ u5 ++ rm) (rd) 8 5).trans
    ((extract_append_high (op ++ u5) (rm) 5 5).trans
    ((extract_append_high (op) (u5) 0 5).trans
    (extract_all _)))

@[simp] theorem formatSHI_extract_6_5 (op u5 : BitVec 5) (rm rd : BitVec 3) :
    (formatSHI op u5 rm rd).extractLsb' 6 5 = u5 :=
  (extract_append_high (op ++ u5 ++ rm) (rd) 3 5).trans
    ((extract_append_high (op ++ u5) (rm) 0 5).trans
    ((extract_append_low (op) (u5) 0 5 (by decide)).trans
    (extract_all _)))

@[simp] theorem formatSHI_extract_3_3 (op u5 : BitVec 5) (rm rd : BitVec 3) :
    (formatSHI op u5 rm rd).extractLsb' 3 3 = rm :=
  (extract_append_high (op ++ u5 ++ rm) (rd) 0 3).trans
    ((extract_append_low (op ++ u5) (rm) 0 3 (by decide)).trans
    (extract_all _))

@[simp] theorem formatSHI_extract_0_3 (op u5 : BitVec 5) (rm rd : BitVec 3) :
    (formatSHI op u5 rm rd).extractLsb' 0 3 = rd :=
  (extract_append_low (op ++ u5 ++ rm) (rd) 0 3 (by decide)).trans (extract_all _)

@[simp] theorem formatR3_extract_11_5 (op : BitVec 7) (rm rn rd : BitVec 3) :
    (formatR3 op rm rn rd).extractLsb' 11 5 = op.extractLsb' 2 5 :=
  (extract_append_high (op ++ rm ++ rn) (rd) 8 5).trans
    ((extract_append_high (op ++ rm) (rn) 5 5).trans
    (extract_append_high (op) (rm) 2 5))

@[simp] theorem formatR3_extract_9_2 (op : BitVec 7) (rm rn rd : BitVec 3) :
    (formatR3 op rm rn rd).extractLsb' 9 2 = op.extractLsb' 0 2 :=
  (extract_append_high (op ++ rm ++ rn) (rd) 6 2).trans
    ((extract_append_high (op ++ rm) (rn) 3 2).trans
    (extract_append_high (op) (rm) 0 2))

@[simp] theorem formatR3_extract_9_3 (op : BitVec 7) (rm rn rd : BitVec 3) :
    (formatR3 op rm rn rd).extractLsb' 9 3 = op.extractLsb' 0 3 :=
  (extract_append_high (op ++ rm ++ rn) (rd) 6 3).trans
    ((extract_append_high (op ++ rm) (rn) 3 3).trans
    (extract_append_high (op) (rm) 0 3))

@[simp] theorem formatR3_extract_6_3 (op : BitVec 7) (rm rn rd : BitVec 3) :
    (formatR3 op rm rn rd).extractLsb' 6 3 = rm :=
  (extract_append_high (op ++ rm ++ rn) (rd) 3 3).trans
    ((extract_append_high (op ++ rm) (rn) 0 3).trans
    ((extract_append_low (op) (rm) 0 3 (by decide)).trans
    (extract_all _)))

@[simp] theorem formatR3_extract_3_3 (op : BitVec 7) (rm rn rd : BitVec 3) :
    (formatR3 op rm rn rd).extractLsb' 3 3 = rn :=
  (extract_append_high (op ++ rm ++ rn) (rd) 0 3).trans
    ((extract_append_low (op ++ rm) (rn) 0 3 (by decide)).trans
    (extract_all _))

@[simp] theorem formatR3_extract_0_3 (op : BitVec 7) (rm rn rd : BitVec 3) :
    (formatR3 op rm rn rd).extractLsb' 0 3 = rd :=
  (extract_append_low (op ++ rm ++ rn) (rd) 0 3 (by decide)).trans (extract_all _)

@[simp] theorem formatI3_extract_11_5 (op : BitVec 7) (u3 rn rd : BitVec 3) :
    (formatI3 op u3 rn rd).extractLsb' 11 5 = op.extractLsb' 2 5 :=
  (extract_append_high (op ++ u3 ++ rn) (rd) 8 5).trans
    ((extract_append_high (op ++ u3) (rn) 5 5).trans
    (extract_append_high (op) (u3) 2 5))

@[simp] theorem formatI3_extract_9_2 (op : BitVec 7) (u3 rn rd : BitVec 3) :
    (formatI3 op u3 rn rd).extractLsb' 9 2 = op.extractLsb' 0 2 :=
  (extract_append_high (op ++ u3 ++ rn) (rd) 6 2).trans
    ((extract_append_high (op ++ u3) (rn) 3 2).trans
    (extract_append_high (op) (u3) 0 2))

@[simp] theorem formatI3_extract_6_3 (op : BitVec 7) (u3 rn rd : BitVec 3) :
    (formatI3 op u3 rn rd).extractLsb' 6 3 = u3 :=
  (extract_append_high (op ++ u3 ++ rn) (rd) 3 3).trans
    ((extract_append_high (op ++ u3) (rn) 0 3).trans
    ((extract_append_low (op) (u3) 0 3 (by decide)).trans
    (extract_all _)))

@[simp] theorem formatI3_extract_3_3 (op : BitVec 7) (u3 rn rd : BitVec 3) :
    (formatI3 op u3 rn rd).extractLsb' 3 3 = rn :=
  (extract_append_high (op ++ u3 ++ rn) (rd) 0 3).trans
    ((extract_append_low (op ++ u3) (rn) 0 3 (by decide)).trans
    (extract_all _))

@[simp] theorem formatI3_extract_0_3 (op : BitVec 7) (u3 rn rd : BitVec 3) :
    (formatI3 op u3 rn rd).extractLsb' 0 3 = rd :=
  (extract_append_low (op ++ u3 ++ rn) (rd) 0 3 (by decide)).trans (extract_all _)

@[simp] theorem formatI8_extract_11_5 (op : BitVec 5) (rd : BitVec 3) (u8 : BitVec 8) :
    (formatI8 op rd u8).extractLsb' 11 5 = op :=
  (extract_append_high (op ++ rd) (u8) 3 5).trans ((extract_append_high (op) (rd) 0 5).trans (extract_all _))

@[simp] theorem formatI8_extract_8_3 (op : BitVec 5) (rd : BitVec 3) (u8 : BitVec 8) :
    (formatI8 op rd u8).extractLsb' 8 3 = rd :=
  (extract_append_high (op ++ rd) (u8) 0 3).trans
    ((extract_append_low (op) (rd) 0 3 (by decide)).trans
    (extract_all _))

@[simp] theorem formatI8_extract_0_8 (op : BitVec 5) (rd : BitVec 3) (u8 : BitVec 8) :
    (formatI8 op rd u8).extractLsb' 0 8 = u8 :=
  (extract_append_low (op ++ rd) (u8) 0 8 (by decide)).trans (extract_all _)

@[simp] theorem formatR2_extract_11_5 (op : BitVec 10) (rm rd : BitVec 3) :
    (formatR2 op rm rd).extractLsb' 11 5 = op.extractLsb' 5 5 :=
  (extract_append_high (op ++ rm) (rd) 8 5).trans (extract_append_high (op) (rm) 5 5)

@[simp] theorem formatR2_extract_10_1 (op : BitVec 10) (rm rd : BitVec 3) :
    (formatR2 op rm rd).extractLsb' 10 1 = op.extractLsb' 4 1 :=
  (extract_append_high (op ++ rm) (rd) 7 1).trans (extract_append_high (op) (rm) 4 1)

@[simp] theorem formatR2_extract_6_4 (op : BitVec 10) (rm rd : BitVec 3) :
    (formatR2 op rm rd).extractLsb' 6 4 = op.extractLsb' 0 4 :=
  (extract_append_high (op ++ rm) (rd) 3 4).trans (extract_append_high (op) (rm) 0 4)

@[simp] theorem formatR2_extract_8_3 (op : BitVec 10) (rm rd : BitVec 3) :
    (formatR2 op rm rd).extractLsb' 8 3 = op.extractLsb' 2 3 :=
  (extract_append_high (op ++ rm) (rd) 5 3).trans (extract_append_high (op) (rm) 2 3)

@[simp] theorem formatR2_extract_6_2 (op : BitVec 10) (rm rd : BitVec 3) :
    (formatR2 op rm rd).extractLsb' 6 2 = op.extractLsb' 0 2 :=
  (extract_append_high (op ++ rm) (rd) 3 2).trans (extract_append_high (op) (rm) 0 2)

@[simp] theorem formatR2_extract_3_3 (op : BitVec 10) (rm rd : BitVec 3) :
    (formatR2 op rm rd).extractLsb' 3 3 = rm :=
  (extract_append_high (op ++ rm) (rd) 0 3).trans
    ((extract_append_low (op) (rm) 0 3 (by decide)).trans
    (extract_all _))

@[simp] theorem formatR2_extract_0_3 (op : BitVec 10) (rm rd : BitVec 3) :
    (formatR2 op rm rd).extractLsb' 0 3 = rd :=
  (extract_append_low (op ++ rm) (rd) 0 3 (by decide)).trans (extract_all _)

@[simp] theorem formatHI_extract_11_5 (op : BitVec 8) (rm rd : BitVec 4) :
    (formatHI op rm rd).extractLsb' 11 5 = op.extractLsb' 3 5 :=
  (extract_append_high (op ++ rd.extractLsb' 3 1 ++ rm) (rd.extractLsb' 0 3) 8 5).trans
    ((extract_append_high (op ++ rd.extractLsb' 3 1) (rm) 4 5).trans
    (extract_append_high (op) (rd.extractLsb' 3 1) 3 5))

@[simp] theorem formatHI_extract_10_1 (op : BitVec 8) (rm rd : BitVec 4) :
    (formatHI op rm rd).extractLsb' 10 1 = op.extractLsb' 2 1 :=
  (extract_append_high (op ++ rd.extractLsb' 3 1 ++ rm) (rd.extractLsb' 0 3) 7 1).trans
    ((extract_append_high (op ++ rd.extractLsb' 3 1) (rm) 3 1).trans
    (extract_append_high (op) (rd.extractLsb' 3 1) 2 1))

@[simp] theorem formatHI_extract_8_2 (op : BitVec 8) (rm rd : BitVec 4) :
    (formatHI op rm rd).extractLsb' 8 2 = op.extractLsb' 0 2 :=
  (extract_append_high (op ++ rd.extractLsb' 3 1 ++ rm) (rd.extractLsb' 0 3) 5 2).trans
    ((extract_append_high (op ++ rd.extractLsb' 3 1) (rm) 1 2).trans
    (extract_append_high (op) (rd.extractLsb' 3 1) 0 2))

@[simp] theorem formatHI_extract_7_1 (op : BitVec 8) (rm rd : BitVec 4) :
    (formatHI op rm rd).extractLsb' 7 1 = rd.extractLsb' 3 1 :=
  (extract_append_high (op ++ rd.extractLsb' 3 1 ++ rm) (rd.extractLsb' 0 3) 4 1).trans
    ((extract_append_high (op ++ rd.extractLsb' 3 1) (rm) 0 1).trans
    ((extract_append_low (op) (rd.extractLsb' 3 1) 0 1 (by decide)).trans
    (extract_all _)))

@[simp] theorem formatHI_extract_3_4 (op : BitVec 8) (rm rd : BitVec 4) :
    (formatHI op rm rd).extractLsb' 3 4 = rm :=
  (extract_append_high (op ++ rd.extractLsb' 3 1 ++ rm) (rd.extractLsb' 0 3) 0 4).trans
    ((extract_append_low (op ++ rd.extractLsb' 3 1) (rm) 0 4 (by decide)).trans
    (extract_all _))

@[simp] theorem formatHI_extract_0_3 (op : BitVec 8) (rm rd : BitVec 4) :
    (formatHI op rm rd).extractLsb' 0 3 = rd.extractLsb' 0 3 :=
  (extract_append_low (op ++ rd.extractLsb' 3 1 ++ rm) (rd.extractLsb' 0 3) 0 3 (by decide)).trans (extract_all _)

@[simp] theorem formatBXF_extract_11_5 (op : BitVec 9) (rm : BitVec 4) :
    (formatBXF op rm).extractLsb' 11 5 = op.extractLsb' 4 5 :=
  (extract_append_high (op ++ rm) (0b000#3) 8 5).trans (extract_append_high (op) (rm) 4 5)

@[simp] theorem formatBXF_extract_10_1 (op : BitVec 9) (rm : BitVec 4) :
    (formatBXF op rm).extractLsb' 10 1 = op.extractLsb' 3 1 :=
  (extract_append_high (op ++ rm) (0b000#3) 7 1).trans (extract_append_high (op) (rm) 3 1)

@[simp] theorem formatBXF_extract_8_2 (op : BitVec 9) (rm : BitVec 4) :
    (formatBXF op rm).extractLsb' 8 2 = op.extractLsb' 1 2 :=
  (extract_append_high (op ++ rm) (0b000#3) 5 2).trans (extract_append_high (op) (rm) 1 2)

@[simp] theorem formatBXF_extract_7_1 (op : BitVec 9) (rm : BitVec 4) :
    (formatBXF op rm).extractLsb' 7 1 = op.extractLsb' 0 1 :=
  (extract_append_high (op ++ rm) (0b000#3) 4 1).trans (extract_append_high (op) (rm) 0 1)

@[simp] theorem formatBXF_extract_3_4 (op : BitVec 9) (rm : BitVec 4) :
    (formatBXF op rm).extractLsb' 3 4 = rm :=
  (extract_append_high (op ++ rm) (0b000#3) 0 4).trans
    ((extract_append_low (op) (rm) 0 4 (by decide)).trans
    (extract_all _))

@[simp] theorem formatBXF_extract_0_3 (op : BitVec 9) (rm : BitVec 4) :
    (formatBXF op rm).extractLsb' 0 3 = 0b000#3 :=
  (extract_append_low (op ++ rm) (0b000#3) 0 3 (by decide)).trans (extract_all _)

@[simp] theorem formatMI5_extract_11_5 (op u5 : BitVec 5) (rn rd : BitVec 3) :
    (formatMI5 op u5 rn rd).extractLsb' 11 5 = op :=
  (extract_append_high (op ++ u5 ++ rn) (rd) 8 5).trans
    ((extract_append_high (op ++ u5) (rn) 5 5).trans
    ((extract_append_high (op) (u5) 0 5).trans
    (extract_all _)))

@[simp] theorem formatMI5_extract_6_5 (op u5 : BitVec 5) (rn rd : BitVec 3) :
    (formatMI5 op u5 rn rd).extractLsb' 6 5 = u5 :=
  (extract_append_high (op ++ u5 ++ rn) (rd) 3 5).trans
    ((extract_append_high (op ++ u5) (rn) 0 5).trans
    ((extract_append_low (op) (u5) 0 5 (by decide)).trans
    (extract_all _)))

@[simp] theorem formatMI5_extract_3_3 (op u5 : BitVec 5) (rn rd : BitVec 3) :
    (formatMI5 op u5 rn rd).extractLsb' 3 3 = rn :=
  (extract_append_high (op ++ u5 ++ rn) (rd) 0 3).trans
    ((extract_append_low (op ++ u5) (rn) 0 3 (by decide)).trans
    (extract_all _))

@[simp] theorem formatMI5_extract_0_3 (op u5 : BitVec 5) (rn rd : BitVec 3) :
    (formatMI5 op u5 rn rd).extractLsb' 0 3 = rd :=
  (extract_append_low (op ++ u5 ++ rn) (rd) 0 3 (by decide)).trans (extract_all _)

@[simp] theorem formatBC_extract_8_4 (cond : BitVec 4) (n8 : BitVec 8) :
    (formatBC cond n8).extractLsb' 8 4 = cond :=
  (extract_append_high (0b1101#4 ++ cond) (n8) 0 4).trans
    ((extract_append_low (0b1101#4) (cond) 0 4 (by decide)).trans
    (extract_all _))

@[simp] theorem formatBC_extract_0_8 (cond : BitVec 4) (n8 : BitVec 8) :
    (formatBC cond n8).extractLsb' 0 8 = n8 :=
  (extract_append_low (0b1101#4 ++ cond) (n8) 0 8 (by decide)).trans (extract_all _)

@[simp] theorem formatB11_extract_11_5 (op : BitVec 5) (n : BitVec 11) :
    (formatB11 op n).extractLsb' 11 5 = op :=
  (extract_append_high (op) (n) 0 5).trans (extract_all _)

@[simp] theorem formatB11_extract_0_11 (op : BitVec 5) (n : BitVec 11) :
    (formatB11 op n).extractLsb' 0 11 = n :=
  (extract_append_low (op) (n) 0 11 (by decide)).trans (extract_all _)

@[simp] theorem formatPL_extract_11_5 (op : BitVec 7) (list : BitVec 9) :
    (formatPL op list).extractLsb' 11 5 = op.extractLsb' 2 5 :=
  extract_append_high (op) (list) 2 5

@[simp] theorem formatPL_extract_0_9 (op : BitVec 7) (list : BitVec 9) :
    (formatPL op list).extractLsb' 0 9 = list :=
  (extract_append_low (op) (list) 0 9 (by decide)).trans (extract_all _)

@[simp] theorem formatML_extract_11_5 (op : BitVec 5) (rn : BitVec 3) (list : BitVec 8) :
    (formatML op rn list).extractLsb' 11 5 = op :=
  (extract_append_high (op ++ rn) (list) 3 5).trans ((extract_append_high (op) (rn) 0 5).trans (extract_all _))

@[simp] theorem formatML_extract_8_3 (op : BitVec 5) (rn : BitVec 3) (list : BitVec 8) :
    (formatML op rn list).extractLsb' 8 3 = rn :=
  (extract_append_high (op ++ rn) (list) 0 3).trans
    ((extract_append_low (op) (rn) 0 3 (by decide)).trans
    (extract_all _))

@[simp] theorem formatML_extract_0_8 (op : BitVec 5) (rn : BitVec 3) (list : BitVec 8) :
    (formatML op rn list).extractLsb' 0 8 = list :=
  (extract_append_low (op ++ rn) (list) 0 8 (by decide)).trans (extract_all _)

@[simp] theorem formatS7_extract_11_5 (op : BitVec 9) (u7 : BitVec 7) :
    (formatS7 op u7).extractLsb' 11 5 = op.extractLsb' 4 5 :=
  extract_append_high (op) (u7) 4 5

@[simp] theorem formatS7_extract_8_3 (op : BitVec 9) (u7 : BitVec 7) :
    (formatS7 op u7).extractLsb' 8 3 = op.extractLsb' 1 3 :=
  extract_append_high (op) (u7) 1 3

@[simp] theorem formatS7_extract_7_1 (op : BitVec 9) (u7 : BitVec 7) :
    (formatS7 op u7).extractLsb' 7 1 = op.extractLsb' 0 1 :=
  extract_append_high (op) (u7) 0 1

@[simp] theorem formatS7_extract_0_7 (op : BitVec 9) (u7 : BitVec 7) :
    (formatS7 op u7).extractLsb' 0 7 = u7 :=
  (extract_append_low (op) (u7) 0 7 (by decide)).trans (extract_all _)

@[simp] theorem formatX8_extract_11_5 (op : BitVec 8) (u8 : BitVec 8) :
    (formatX8 op u8).extractLsb' 11 5 = op.extractLsb' 3 5 :=
  extract_append_high (op) (u8) 3 5

@[simp] theorem formatX8_extract_8_3 (op : BitVec 8) (u8 : BitVec 8) :
    (formatX8 op u8).extractLsb' 8 3 = op.extractLsb' 0 3 :=
  extract_append_high (op) (u8) 0 3

@[simp] theorem formatX8_extract_8_4 (op : BitVec 8) (u8 : BitVec 8) :
    (formatX8 op u8).extractLsb' 8 4 = op.extractLsb' 0 4 :=
  extract_append_high (op) (u8) 0 4

@[simp] theorem formatX8_extract_8_8 (op : BitVec 8) (u8 : BitVec 8) :
    (formatX8 op u8).extractLsb' 8 8 = op :=
  (extract_append_high (op) (u8) 0 8).trans (extract_all _)

@[simp] theorem formatX8_extract_0_8 (op : BitVec 8) (u8 : BitVec 8) :
    (formatX8 op u8).extractLsb' 0 8 = u8 :=
  (extract_append_low (op) (u8) 0 8 (by decide)).trans (extract_all _)

@[simp] theorem formatBarrier_extract_4_12 (op : BitVec 12) (option : BitVec 4) :
    (formatBarrier op option).extractLsb' 4 12 = op :=
  (extract_append_high (op) (option) 0 12).trans (extract_all _)

@[simp] theorem formatBarrier_extract_0_4 (op : BitVec 12) (option : BitVec 4) :
    (formatBarrier op option).extractLsb' 0 4 = option :=
  (extract_append_low (op) (option) 0 4 (by decide)).trans (extract_all _)

@[simp] theorem formatMrs_extract_12_4 (op rd : BitVec 4) (sysm : BitVec 8) :
    (formatMrs op rd sysm).extractLsb' 12 4 = op :=
  (extract_append_high (op ++ rd) (sysm) 4 4).trans ((extract_append_high (op) (rd) 0 4).trans (extract_all _))

@[simp] theorem formatMrs_extract_8_4 (op rd : BitVec 4) (sysm : BitVec 8) :
    (formatMrs op rd sysm).extractLsb' 8 4 = rd :=
  (extract_append_high (op ++ rd) (sysm) 0 4).trans
    ((extract_append_low (op) (rd) 0 4 (by decide)).trans
    (extract_all _))

@[simp] theorem formatMrs_extract_0_8 (op rd : BitVec 4) (sysm : BitVec 8) :
    (formatMrs op rd sysm).extractLsb' 0 8 = sysm :=
  (extract_append_low (op ++ rd) (sysm) 0 8 (by decide)).trans (extract_all _)

/-! ### Bytes -/

theorem halfOfBytes_halfBytes (h : Half) : halfOfBytes (h.extractLsb' 0 8) (h.extractLsb' 8 8) = h :=
  append_extract_eq (a := 8) (b := 8) h

theorem decodeBytes_narrow (h : Half) (rest : List Byte) (i : Instr) (hw : isWide h = false)
    (hd : decode16 h = some i) : decodeBytes (halfBytes h ++ rest) = .ok (i, rest) := by
  simp [halfBytes, decodeBytes, halfOfBytes_halfBytes, hw, decode, hd, Except.map]

theorem decodeBytes_wide (h h2 : Half) (rest : List Byte) (i : Instr) (hw : isWide h = true)
    (hd : decode32 h h2 = some i) : decodeBytes (halfBytes h ++ halfBytes h2 ++ rest) = .ok (i, rest) := by
  simp [halfBytes, decodeBytes, halfOfBytes_halfBytes, hw, decode, hd, Except.map]

/-- The first halfword of a conditional branch begins 11010 or 11011. -/
theorem formatBC_top (cond : BitVec 4) (n8 : BitVec 8) :
    (formatBC cond n8).extractLsb' 11 5 = 0b11010#5 ∨ (formatBC cond n8).extractLsb' 11 5 = 0b11011#5 := by
  have e : (formatBC cond n8).extractLsb' 11 5 = (0b1101#4 ++ cond).extractLsb' 3 5 :=
    extract_append_high (0b1101#4 ++ cond) n8 3 5
  rw [e]
  clear e
  revert cond
  decide

theorem isWide_eq (h : Half) : isWide h = (h.extractLsb' 11 5 == 0b11110#5) := rfl

theorem formatBC_narrow (cond : BitVec 4) (n8 : BitVec 8) : (formatBC cond n8).extractLsb' 11 5 ≠ 0b11110#5 := by
  rcases formatBC_top cond n8 with h | h <;> rw [h] <;> decide

end Sys2Proof
end

