-- ==== Sys2Proof/Laws/State.lean ====
section
/-! SUPPORT. One lemma for each field and each update of the state. -/

namespace Sys2Proof.Machine

/-! ### `setLo` -/

@[simp] theorem State.setLo_regs (s : State) (r : BitVec 3) (v : Word) :
    (s.setLo r v).regs = s.regs.set r.toNat v (by omega) := rfl
@[simp] theorem State.setLo_lr (s : State) (r : BitVec 3) (v : Word) : (s.setLo r v).lr = s.lr := rfl
@[simp] theorem State.setLo_msp (s : State) (r : BitVec 3) (v : Word) : (s.setLo r v).msp = s.msp := rfl
@[simp] theorem State.setLo_psp (s : State) (r : BitVec 3) (v : Word) : (s.setLo r v).psp = s.psp := rfl
@[simp] theorem State.setLo_pc (s : State) (r : BitVec 3) (v : Word) : (s.setLo r v).pc = s.pc := rfl
@[simp] theorem State.setLo_flags (s : State) (r : BitVec 3) (v : Word) : (s.setLo r v).flags = s.flags := rfl
@[simp] theorem State.setLo_ipsr (s : State) (r : BitVec 3) (v : Word) : (s.setLo r v).ipsr = s.ipsr := rfl
@[simp] theorem State.setLo_epsrT (s : State) (r : BitVec 3) (v : Word) : (s.setLo r v).epsrT = s.epsrT := rfl
@[simp] theorem State.setLo_pm (s : State) (r : BitVec 3) (v : Word) : (s.setLo r v).pm = s.pm := rfl
@[simp] theorem State.setLo_spsel (s : State) (r : BitVec 3) (v : Word) : (s.setLo r v).spsel = s.spsel := rfl
@[simp] theorem State.setLo_mode (s : State) (r : BitVec 3) (v : Word) : (s.setLo r v).mode = s.mode := rfl
@[simp] theorem State.setLo_eventReg (s : State) (r : BitVec 3) (v : Word) :
    (s.setLo r v).eventReg = s.eventReg := rfl
@[simp] theorem State.setLo_waiting (s : State) (r : BitVec 3) (v : Word) : (s.setLo r v).waiting = s.waiting := rfl
@[simp] theorem State.setLo_lockup (s : State) (r : BitVec 3) (v : Word) : (s.setLo r v).lockup = s.lockup := rfl
@[simp] theorem State.setLo_active (s : State) (r : BitVec 3) (v : Word) : (s.setLo r v).active = s.active := rfl
@[simp] theorem State.setLo_scs (s : State) (r : BitVec 3) (v : Word) : (s.setLo r v).scs = s.scs := rfl
@[simp] theorem State.setLo_mem (s : State) (r : BitVec 3) (v : Word) : (s.setLo r v).mem = s.mem := rfl
@[simp] theorem State.setLo_dirty (s : State) (r : BitVec 3) (v : Word) : (s.setLo r v).dirty = s.dirty := rfl
@[simp] theorem State.setLo_deviceLog (s : State) (r : BitVec 3) (v : Word) :
    (s.setLo r v).deviceLog = s.deviceLog := rfl
@[simp] theorem State.setLo_env (s : State) (r : BitVec 3) (v : Word) : (s.setLo r v).env = s.env := rfl
@[simp] theorem State.setLo_wakeUp (s : State) (r : BitVec 3) (v : Word) : (s.setLo r v).wakeUp = s.wakeUp := rfl
@[simp] theorem State.setLo_freeIdx (s : State) (r : BitVec 3) (v : Word) : (s.setLo r v).freeIdx = s.freeIdx := rfl
@[simp] theorem State.setLo_cfg (s : State) (r : BitVec 3) (v : Word) : (s.setLo r v).cfg = s.cfg := rfl

/-! ### `setSp` -/

@[simp] theorem State.setSp_regs (s : State) (v : Word) :
    (s.setSp v).regs = s.regs := by unfold State.setSp; split <;> rfl
@[simp] theorem State.setSp_lr (s : State) (v : Word) : (s.setSp v).lr = s.lr := by unfold State.setSp; split <;> rfl
@[simp] theorem State.setSp_msp (s : State) (v : Word) :
    (s.setSp v).msp = if s.usesPsp then s.msp else alignWord v := by unfold State.setSp; split <;> rfl
@[simp] theorem State.setSp_psp (s : State) (v : Word) :
    (s.setSp v).psp = if s.usesPsp then alignWord v else s.psp := by unfold State.setSp; split <;> rfl
@[simp] theorem State.setSp_pc (s : State) (v : Word) : (s.setSp v).pc = s.pc := by unfold State.setSp; split <;> rfl
@[simp] theorem State.setSp_flags (s : State) (v : Word) :
    (s.setSp v).flags = s.flags := by unfold State.setSp; split <;> rfl
@[simp] theorem State.setSp_ipsr (s : State) (v : Word) :
    (s.setSp v).ipsr = s.ipsr := by unfold State.setSp; split <;> rfl
@[simp] theorem State.setSp_epsrT (s : State) (v : Word) :
    (s.setSp v).epsrT = s.epsrT := by unfold State.setSp; split <;> rfl
@[simp] theorem State.setSp_pm (s : State) (v : Word) : (s.setSp v).pm = s.pm := by unfold State.setSp; split <;> rfl
@[simp] theorem State.setSp_spsel (s : State) (v : Word) :
    (s.setSp v).spsel = s.spsel := by unfold State.setSp; split <;> rfl
@[simp] theorem State.setSp_mode (s : State) (v : Word) :
    (s.setSp v).mode = s.mode := by unfold State.setSp; split <;> rfl
@[simp] theorem State.setSp_eventReg (s : State) (v : Word) :
    (s.setSp v).eventReg = s.eventReg := by unfold State.setSp; split <;> rfl
@[simp] theorem State.setSp_waiting (s : State) (v : Word) :
    (s.setSp v).waiting = s.waiting := by unfold State.setSp; split <;> rfl
@[simp] theorem State.setSp_lockup (s : State) (v : Word) :
    (s.setSp v).lockup = s.lockup := by unfold State.setSp; split <;> rfl
@[simp] theorem State.setSp_active (s : State) (v : Word) :
    (s.setSp v).active = s.active := by unfold State.setSp; split <;> rfl
@[simp] theorem State.setSp_scs (s : State) (v : Word) :
    (s.setSp v).scs = s.scs := by unfold State.setSp; split <;> rfl
@[simp] theorem State.setSp_mem (s : State) (v : Word) :
    (s.setSp v).mem = s.mem := by unfold State.setSp; split <;> rfl
@[simp] theorem State.setSp_dirty (s : State) (v : Word) :
    (s.setSp v).dirty = s.dirty := by unfold State.setSp; split <;> rfl
@[simp] theorem State.setSp_deviceLog (s : State) (v : Word) :
    (s.setSp v).deviceLog = s.deviceLog := by unfold State.setSp; split <;> rfl
@[simp] theorem State.setSp_env (s : State) (v : Word) :
    (s.setSp v).env = s.env := by unfold State.setSp; split <;> rfl
@[simp] theorem State.setSp_wakeUp (s : State) (v : Word) :
    (s.setSp v).wakeUp = s.wakeUp := by unfold State.setSp; split <;> rfl
@[simp] theorem State.setSp_freeIdx (s : State) (v : Word) :
    (s.setSp v).freeIdx = s.freeIdx := by unfold State.setSp; split <;> rfl
@[simp] theorem State.setSp_cfg (s : State) (v : Word) :
    (s.setSp v).cfg = s.cfg := by unfold State.setSp; split <;> rfl

/-! ### `advance` -/

@[simp] theorem State.advance_regs (s : State) (n : Word) : (s.advance n).regs = s.regs := rfl
@[simp] theorem State.advance_lr (s : State) (n : Word) : (s.advance n).lr = s.lr := rfl
@[simp] theorem State.advance_msp (s : State) (n : Word) : (s.advance n).msp = s.msp := rfl
@[simp] theorem State.advance_psp (s : State) (n : Word) : (s.advance n).psp = s.psp := rfl
@[simp] theorem State.advance_pc (s : State) (n : Word) : (s.advance n).pc = s.pc + n := rfl
@[simp] theorem State.advance_flags (s : State) (n : Word) : (s.advance n).flags = s.flags := rfl
@[simp] theorem State.advance_ipsr (s : State) (n : Word) : (s.advance n).ipsr = s.ipsr := rfl
@[simp] theorem State.advance_epsrT (s : State) (n : Word) : (s.advance n).epsrT = s.epsrT := rfl
@[simp] theorem State.advance_pm (s : State) (n : Word) : (s.advance n).pm = s.pm := rfl
@[simp] theorem State.advance_spsel (s : State) (n : Word) : (s.advance n).spsel = s.spsel := rfl
@[simp] theorem State.advance_mode (s : State) (n : Word) : (s.advance n).mode = s.mode := rfl
@[simp] theorem State.advance_eventReg (s : State) (n : Word) : (s.advance n).eventReg = s.eventReg := rfl
@[simp] theorem State.advance_waiting (s : State) (n : Word) : (s.advance n).waiting = s.waiting := rfl
@[simp] theorem State.advance_lockup (s : State) (n : Word) : (s.advance n).lockup = s.lockup := rfl
@[simp] theorem State.advance_active (s : State) (n : Word) : (s.advance n).active = s.active := rfl
@[simp] theorem State.advance_scs (s : State) (n : Word) : (s.advance n).scs = s.scs := rfl
@[simp] theorem State.advance_mem (s : State) (n : Word) : (s.advance n).mem = s.mem := rfl
@[simp] theorem State.advance_dirty (s : State) (n : Word) : (s.advance n).dirty = s.dirty := rfl
@[simp] theorem State.advance_deviceLog (s : State) (n : Word) : (s.advance n).deviceLog = s.deviceLog := rfl
@[simp] theorem State.advance_env (s : State) (n : Word) : (s.advance n).env = s.env := rfl
@[simp] theorem State.advance_wakeUp (s : State) (n : Word) : (s.advance n).wakeUp = s.wakeUp := rfl
@[simp] theorem State.advance_freeIdx (s : State) (n : Word) : (s.advance n).freeIdx = s.freeIdx := rfl
@[simp] theorem State.advance_cfg (s : State) (n : Word) : (s.advance n).cfg = s.cfg := rfl

/-! ### `result` -/

@[simp] theorem State.result_regs (s : State) (r : BitVec 3) (v : Word) (f : Flags) :
    (s.result r v f).regs = s.regs.set r.toNat v (by omega) := rfl
@[simp] theorem State.result_lr (s : State) (r : BitVec 3) (v : Word) (f : Flags) : (s.result r v f).lr = s.lr := rfl
@[simp] theorem State.result_msp (s : State) (r : BitVec 3) (v : Word) (f : Flags) :
    (s.result r v f).msp = s.msp := rfl
@[simp] theorem State.result_psp (s : State) (r : BitVec 3) (v : Word) (f : Flags) :
    (s.result r v f).psp = s.psp := rfl
@[simp] theorem State.result_pc (s : State) (r : BitVec 3) (v : Word) (f : Flags) :
    (s.result r v f).pc = s.pc + 2 := rfl
@[simp] theorem State.result_flags (s : State) (r : BitVec 3) (v : Word) (f : Flags) :
    (s.result r v f).flags = f := rfl
@[simp] theorem State.result_ipsr (s : State) (r : BitVec 3) (v : Word) (f : Flags) :
    (s.result r v f).ipsr = s.ipsr := rfl
@[simp] theorem State.result_epsrT (s : State) (r : BitVec 3) (v : Word) (f : Flags) :
    (s.result r v f).epsrT = s.epsrT := rfl
@[simp] theorem State.result_pm (s : State) (r : BitVec 3) (v : Word) (f : Flags) : (s.result r v f).pm = s.pm := rfl
@[simp] theorem State.result_spsel (s : State) (r : BitVec 3) (v : Word) (f : Flags) :
    (s.result r v f).spsel = s.spsel := rfl
@[simp] theorem State.result_mode (s : State) (r : BitVec 3) (v : Word) (f : Flags) :
    (s.result r v f).mode = s.mode := rfl
@[simp] theorem State.result_eventReg (s : State) (r : BitVec 3) (v : Word) (f : Flags) :
    (s.result r v f).eventReg = s.eventReg := rfl
@[simp] theorem State.result_waiting (s : State) (r : BitVec 3) (v : Word) (f : Flags) :
    (s.result r v f).waiting = s.waiting := rfl
@[simp] theorem State.result_lockup (s : State) (r : BitVec 3) (v : Word) (f : Flags) :
    (s.result r v f).lockup = s.lockup := rfl
@[simp] theorem State.result_active (s : State) (r : BitVec 3) (v : Word) (f : Flags) :
    (s.result r v f).active = s.active := rfl
@[simp] theorem State.result_scs (s : State) (r : BitVec 3) (v : Word) (f : Flags) :
    (s.result r v f).scs = s.scs := rfl
@[simp] theorem State.result_mem (s : State) (r : BitVec 3) (v : Word) (f : Flags) :
    (s.result r v f).mem = s.mem := rfl
@[simp] theorem State.result_dirty (s : State) (r : BitVec 3) (v : Word) (f : Flags) :
    (s.result r v f).dirty = s.dirty := rfl
@[simp] theorem State.result_deviceLog (s : State) (r : BitVec 3) (v : Word) (f : Flags) :
    (s.result r v f).deviceLog = s.deviceLog := rfl
@[simp] theorem State.result_env (s : State) (r : BitVec 3) (v : Word) (f : Flags) :
    (s.result r v f).env = s.env := rfl
@[simp] theorem State.result_wakeUp (s : State) (r : BitVec 3) (v : Word) (f : Flags) :
    (s.result r v f).wakeUp = s.wakeUp := rfl
@[simp] theorem State.result_freeIdx (s : State) (r : BitVec 3) (v : Word) (f : Flags) :
    (s.result r v f).freeIdx = s.freeIdx := rfl
@[simp] theorem State.result_cfg (s : State) (r : BitVec 3) (v : Word) (f : Flags) :
    (s.result r v f).cfg = s.cfg := rfl

/-! ### `resultFlags` -/

@[simp] theorem State.resultFlags_regs (s : State) (f : Flags) : (s.resultFlags f).regs = s.regs := rfl
@[simp] theorem State.resultFlags_lr (s : State) (f : Flags) : (s.resultFlags f).lr = s.lr := rfl
@[simp] theorem State.resultFlags_msp (s : State) (f : Flags) : (s.resultFlags f).msp = s.msp := rfl
@[simp] theorem State.resultFlags_psp (s : State) (f : Flags) : (s.resultFlags f).psp = s.psp := rfl
@[simp] theorem State.resultFlags_pc (s : State) (f : Flags) : (s.resultFlags f).pc = s.pc + 2 := rfl
@[simp] theorem State.resultFlags_flags (s : State) (f : Flags) : (s.resultFlags f).flags = f := rfl
@[simp] theorem State.resultFlags_ipsr (s : State) (f : Flags) : (s.resultFlags f).ipsr = s.ipsr := rfl
@[simp] theorem State.resultFlags_epsrT (s : State) (f : Flags) : (s.resultFlags f).epsrT = s.epsrT := rfl
@[simp] theorem State.resultFlags_pm (s : State) (f : Flags) : (s.resultFlags f).pm = s.pm := rfl
@[simp] theorem State.resultFlags_spsel (s : State) (f : Flags) : (s.resultFlags f).spsel = s.spsel := rfl
@[simp] theorem State.resultFlags_mode (s : State) (f : Flags) : (s.resultFlags f).mode = s.mode := rfl
@[simp] theorem State.resultFlags_eventReg (s : State) (f : Flags) : (s.resultFlags f).eventReg = s.eventReg := rfl
@[simp] theorem State.resultFlags_waiting (s : State) (f : Flags) : (s.resultFlags f).waiting = s.waiting := rfl
@[simp] theorem State.resultFlags_lockup (s : State) (f : Flags) : (s.resultFlags f).lockup = s.lockup := rfl
@[simp] theorem State.resultFlags_active (s : State) (f : Flags) : (s.resultFlags f).active = s.active := rfl
@[simp] theorem State.resultFlags_scs (s : State) (f : Flags) : (s.resultFlags f).scs = s.scs := rfl
@[simp] theorem State.resultFlags_mem (s : State) (f : Flags) : (s.resultFlags f).mem = s.mem := rfl
@[simp] theorem State.resultFlags_dirty (s : State) (f : Flags) : (s.resultFlags f).dirty = s.dirty := rfl
@[simp] theorem State.resultFlags_deviceLog (s : State) (f : Flags) : (s.resultFlags f).deviceLog = s.deviceLog := rfl
@[simp] theorem State.resultFlags_env (s : State) (f : Flags) : (s.resultFlags f).env = s.env := rfl
@[simp] theorem State.resultFlags_wakeUp (s : State) (f : Flags) : (s.resultFlags f).wakeUp = s.wakeUp := rfl
@[simp] theorem State.resultFlags_freeIdx (s : State) (f : Flags) : (s.resultFlags f).freeIdx = s.freeIdx := rfl
@[simp] theorem State.resultFlags_cfg (s : State) (f : Flags) : (s.resultFlags f).cfg = s.cfg := rfl

/-! ### `withPending` -/

@[simp] theorem State.withPending_regs (s : State) (x : Scs) : (s.withPending x).regs = s.regs := rfl
@[simp] theorem State.withPending_lr (s : State) (x : Scs) : (s.withPending x).lr = s.lr := rfl
@[simp] theorem State.withPending_msp (s : State) (x : Scs) : (s.withPending x).msp = s.msp := rfl
@[simp] theorem State.withPending_psp (s : State) (x : Scs) : (s.withPending x).psp = s.psp := rfl
@[simp] theorem State.withPending_pc (s : State) (x : Scs) : (s.withPending x).pc = s.pc := rfl
@[simp] theorem State.withPending_flags (s : State) (x : Scs) : (s.withPending x).flags = s.flags := rfl
@[simp] theorem State.withPending_ipsr (s : State) (x : Scs) : (s.withPending x).ipsr = s.ipsr := rfl
@[simp] theorem State.withPending_epsrT (s : State) (x : Scs) : (s.withPending x).epsrT = s.epsrT := rfl
@[simp] theorem State.withPending_pm (s : State) (x : Scs) : (s.withPending x).pm = s.pm := rfl
@[simp] theorem State.withPending_spsel (s : State) (x : Scs) : (s.withPending x).spsel = s.spsel := rfl
@[simp] theorem State.withPending_mode (s : State) (x : Scs) : (s.withPending x).mode = s.mode := rfl
@[simp] theorem State.withPending_eventReg (s : State) (x : Scs) :
    (s.withPending x).eventReg = (s.eventReg || (s.scs.sevOnPend && x.pendingBits &&& ~~~s.scs.pendingBits != 0)) := rfl
@[simp] theorem State.withPending_waiting (s : State) (x : Scs) : (s.withPending x).waiting = s.waiting := rfl
@[simp] theorem State.withPending_lockup (s : State) (x : Scs) : (s.withPending x).lockup = s.lockup := rfl
@[simp] theorem State.withPending_active (s : State) (x : Scs) : (s.withPending x).active = s.active := rfl
@[simp] theorem State.withPending_scs (s : State) (x : Scs) : (s.withPending x).scs = x := rfl
@[simp] theorem State.withPending_mem (s : State) (x : Scs) : (s.withPending x).mem = s.mem := rfl
@[simp] theorem State.withPending_dirty (s : State) (x : Scs) : (s.withPending x).dirty = s.dirty := rfl
@[simp] theorem State.withPending_deviceLog (s : State) (x : Scs) : (s.withPending x).deviceLog = s.deviceLog := rfl
@[simp] theorem State.withPending_env (s : State) (x : Scs) : (s.withPending x).env = s.env := rfl
@[simp] theorem State.withPending_wakeUp (s : State) (x : Scs) : (s.withPending x).wakeUp = s.wakeUp := rfl
@[simp] theorem State.withPending_freeIdx (s : State) (x : Scs) : (s.withPending x).freeIdx = s.freeIdx := rfl
@[simp] theorem State.withPending_cfg (s : State) (x : Scs) : (s.withPending x).cfg = s.cfg := rfl

/-! ### `pendIrqs` -/

@[simp] theorem State.pendIrqs_regs (s : State) (k : BitVec 32) : (s.pendIrqs k).regs = s.regs := rfl
@[simp] theorem State.pendIrqs_lr (s : State) (k : BitVec 32) : (s.pendIrqs k).lr = s.lr := rfl
@[simp] theorem State.pendIrqs_msp (s : State) (k : BitVec 32) : (s.pendIrqs k).msp = s.msp := rfl
@[simp] theorem State.pendIrqs_psp (s : State) (k : BitVec 32) : (s.pendIrqs k).psp = s.psp := rfl
@[simp] theorem State.pendIrqs_pc (s : State) (k : BitVec 32) : (s.pendIrqs k).pc = s.pc := rfl
@[simp] theorem State.pendIrqs_flags (s : State) (k : BitVec 32) : (s.pendIrqs k).flags = s.flags := rfl
@[simp] theorem State.pendIrqs_ipsr (s : State) (k : BitVec 32) : (s.pendIrqs k).ipsr = s.ipsr := rfl
@[simp] theorem State.pendIrqs_epsrT (s : State) (k : BitVec 32) : (s.pendIrqs k).epsrT = s.epsrT := rfl
@[simp] theorem State.pendIrqs_pm (s : State) (k : BitVec 32) : (s.pendIrqs k).pm = s.pm := rfl
@[simp] theorem State.pendIrqs_spsel (s : State) (k : BitVec 32) : (s.pendIrqs k).spsel = s.spsel := rfl
@[simp] theorem State.pendIrqs_mode (s : State) (k : BitVec 32) : (s.pendIrqs k).mode = s.mode := rfl
@[simp] theorem State.pendIrqs_waiting (s : State) (k : BitVec 32) : (s.pendIrqs k).waiting = s.waiting := rfl
@[simp] theorem State.pendIrqs_lockup (s : State) (k : BitVec 32) : (s.pendIrqs k).lockup = s.lockup := rfl
@[simp] theorem State.pendIrqs_active (s : State) (k : BitVec 32) : (s.pendIrqs k).active = s.active := rfl
@[simp] theorem State.pendIrqs_scs (s : State) (k : BitVec 32) :
    (s.pendIrqs k).scs = { s.scs with irqPending := s.scs.irqPending ||| k } := rfl
@[simp] theorem State.pendIrqs_mem (s : State) (k : BitVec 32) : (s.pendIrqs k).mem = s.mem := rfl
@[simp] theorem State.pendIrqs_dirty (s : State) (k : BitVec 32) : (s.pendIrqs k).dirty = s.dirty := rfl
@[simp] theorem State.pendIrqs_deviceLog (s : State) (k : BitVec 32) : (s.pendIrqs k).deviceLog = s.deviceLog := rfl
@[simp] theorem State.pendIrqs_env (s : State) (k : BitVec 32) : (s.pendIrqs k).env = s.env := rfl
@[simp] theorem State.pendIrqs_wakeUp (s : State) (k : BitVec 32) : (s.pendIrqs k).wakeUp = s.wakeUp := rfl
@[simp] theorem State.pendIrqs_freeIdx (s : State) (k : BitVec 32) : (s.pendIrqs k).freeIdx = s.freeIdx := rfl
@[simp] theorem State.pendIrqs_cfg (s : State) (k : BitVec 32) : (s.pendIrqs k).cfg = s.cfg := rfl

/-! ### `pendSystem` -/

@[simp] theorem State.pendSystem_regs (s : State) (a b c : Bool) : (s.pendSystem a b c).regs = s.regs := rfl
@[simp] theorem State.pendSystem_lr (s : State) (a b c : Bool) : (s.pendSystem a b c).lr = s.lr := rfl
@[simp] theorem State.pendSystem_msp (s : State) (a b c : Bool) : (s.pendSystem a b c).msp = s.msp := rfl
@[simp] theorem State.pendSystem_psp (s : State) (a b c : Bool) : (s.pendSystem a b c).psp = s.psp := rfl
@[simp] theorem State.pendSystem_pc (s : State) (a b c : Bool) : (s.pendSystem a b c).pc = s.pc := rfl
@[simp] theorem State.pendSystem_flags (s : State) (a b c : Bool) : (s.pendSystem a b c).flags = s.flags := rfl
@[simp] theorem State.pendSystem_ipsr (s : State) (a b c : Bool) : (s.pendSystem a b c).ipsr = s.ipsr := rfl
@[simp] theorem State.pendSystem_epsrT (s : State) (a b c : Bool) : (s.pendSystem a b c).epsrT = s.epsrT := rfl
@[simp] theorem State.pendSystem_pm (s : State) (a b c : Bool) : (s.pendSystem a b c).pm = s.pm := rfl
@[simp] theorem State.pendSystem_spsel (s : State) (a b c : Bool) : (s.pendSystem a b c).spsel = s.spsel := rfl
@[simp] theorem State.pendSystem_mode (s : State) (a b c : Bool) : (s.pendSystem a b c).mode = s.mode := rfl
@[simp] theorem State.pendSystem_waiting (s : State) (a b c : Bool) : (s.pendSystem a b c).waiting = s.waiting := rfl
@[simp] theorem State.pendSystem_lockup (s : State) (a b c : Bool) : (s.pendSystem a b c).lockup = s.lockup := rfl
@[simp] theorem State.pendSystem_active (s : State) (a b c : Bool) : (s.pendSystem a b c).active = s.active := rfl
@[simp] theorem State.pendSystem_scs (s : State) (a b c : Bool) :
    (s.pendSystem a b c).scs = { s.scs with nmiPending := s.scs.nmiPending || a, pendSvPending := s.scs.pendSvPending || b, sysTickPending := s.scs.sysTickPending || c } := rfl
@[simp] theorem State.pendSystem_mem (s : State) (a b c : Bool) : (s.pendSystem a b c).mem = s.mem := rfl
@[simp] theorem State.pendSystem_dirty (s : State) (a b c : Bool) : (s.pendSystem a b c).dirty = s.dirty := rfl
@[simp] theorem State.pendSystem_deviceLog (s : State) (a b c : Bool) :
    (s.pendSystem a b c).deviceLog = s.deviceLog := rfl
@[simp] theorem State.pendSystem_env (s : State) (a b c : Bool) : (s.pendSystem a b c).env = s.env := rfl
@[simp] theorem State.pendSystem_wakeUp (s : State) (a b c : Bool) : (s.pendSystem a b c).wakeUp = s.wakeUp := rfl
@[simp] theorem State.pendSystem_freeIdx (s : State) (a b c : Bool) : (s.pendSystem a b c).freeIdx = s.freeIdx := rfl
@[simp] theorem State.pendSystem_cfg (s : State) (a b c : Bool) : (s.pendSystem a b c).cfg = s.cfg := rfl

/-! ### `markStored` -/

@[simp] theorem State.markStored_regs (s : State) (a : Word) (z : Size) : (s.markStored a z).regs = s.regs := rfl
@[simp] theorem State.markStored_lr (s : State) (a : Word) (z : Size) : (s.markStored a z).lr = s.lr := rfl
@[simp] theorem State.markStored_msp (s : State) (a : Word) (z : Size) : (s.markStored a z).msp = s.msp := rfl
@[simp] theorem State.markStored_psp (s : State) (a : Word) (z : Size) : (s.markStored a z).psp = s.psp := rfl
@[simp] theorem State.markStored_pc (s : State) (a : Word) (z : Size) : (s.markStored a z).pc = s.pc := rfl
@[simp] theorem State.markStored_flags (s : State) (a : Word) (z : Size) : (s.markStored a z).flags = s.flags := rfl
@[simp] theorem State.markStored_ipsr (s : State) (a : Word) (z : Size) : (s.markStored a z).ipsr = s.ipsr := rfl
@[simp] theorem State.markStored_epsrT (s : State) (a : Word) (z : Size) : (s.markStored a z).epsrT = s.epsrT := rfl
@[simp] theorem State.markStored_pm (s : State) (a : Word) (z : Size) : (s.markStored a z).pm = s.pm := rfl
@[simp] theorem State.markStored_spsel (s : State) (a : Word) (z : Size) : (s.markStored a z).spsel = s.spsel := rfl
@[simp] theorem State.markStored_mode (s : State) (a : Word) (z : Size) : (s.markStored a z).mode = s.mode := rfl
@[simp] theorem State.markStored_eventReg (s : State) (a : Word) (z : Size) :
    (s.markStored a z).eventReg = s.eventReg := rfl
@[simp] theorem State.markStored_waiting (s : State) (a : Word) (z : Size) :
    (s.markStored a z).waiting = s.waiting := rfl
@[simp] theorem State.markStored_lockup (s : State) (a : Word) (z : Size) :
    (s.markStored a z).lockup = s.lockup := rfl
@[simp] theorem State.markStored_active (s : State) (a : Word) (z : Size) :
    (s.markStored a z).active = s.active := rfl
@[simp] theorem State.markStored_scs (s : State) (a : Word) (z : Size) : (s.markStored a z).scs = s.scs := rfl
@[simp] theorem State.markStored_mem (s : State) (a : Word) (z : Size) : (s.markStored a z).mem = s.mem := rfl
@[simp] theorem State.markStored_dirty (s : State) (a : Word) (z : Size) :
    (s.markStored a z).dirty = markBytes a z.bytes s.dirty := rfl
@[simp] theorem State.markStored_deviceLog (s : State) (a : Word) (z : Size) :
    (s.markStored a z).deviceLog = s.deviceLog := rfl
@[simp] theorem State.markStored_env (s : State) (a : Word) (z : Size) : (s.markStored a z).env = s.env := rfl
@[simp] theorem State.markStored_wakeUp (s : State) (a : Word) (z : Size) :
    (s.markStored a z).wakeUp = s.wakeUp := rfl
@[simp] theorem State.markStored_freeIdx (s : State) (a : Word) (z : Size) :
    (s.markStored a z).freeIdx = s.freeIdx := rfl
@[simp] theorem State.markStored_cfg (s : State) (a : Word) (z : Size) : (s.markStored a z).cfg = s.cfg := rfl

/-! ### `storePlain` -/

@[simp] theorem State.storePlain_regs (s : State) (a : Word) (z : Size) (v : Word) :
    (s.storePlain a z v).regs = s.regs := rfl
@[simp] theorem State.storePlain_lr (s : State) (a : Word) (z : Size) (v : Word) :
    (s.storePlain a z v).lr = s.lr := rfl
@[simp] theorem State.storePlain_msp (s : State) (a : Word) (z : Size) (v : Word) :
    (s.storePlain a z v).msp = s.msp := rfl
@[simp] theorem State.storePlain_psp (s : State) (a : Word) (z : Size) (v : Word) :
    (s.storePlain a z v).psp = s.psp := rfl
@[simp] theorem State.storePlain_pc (s : State) (a : Word) (z : Size) (v : Word) :
    (s.storePlain a z v).pc = s.pc := rfl
@[simp] theorem State.storePlain_flags (s : State) (a : Word) (z : Size) (v : Word) :
    (s.storePlain a z v).flags = s.flags := rfl
@[simp] theorem State.storePlain_ipsr (s : State) (a : Word) (z : Size) (v : Word) :
    (s.storePlain a z v).ipsr = s.ipsr := rfl
@[simp] theorem State.storePlain_epsrT (s : State) (a : Word) (z : Size) (v : Word) :
    (s.storePlain a z v).epsrT = s.epsrT := rfl
@[simp] theorem State.storePlain_pm (s : State) (a : Word) (z : Size) (v : Word) :
    (s.storePlain a z v).pm = s.pm := rfl
@[simp] theorem State.storePlain_spsel (s : State) (a : Word) (z : Size) (v : Word) :
    (s.storePlain a z v).spsel = s.spsel := rfl
@[simp] theorem State.storePlain_mode (s : State) (a : Word) (z : Size) (v : Word) :
    (s.storePlain a z v).mode = s.mode := rfl
@[simp] theorem State.storePlain_eventReg (s : State) (a : Word) (z : Size) (v : Word) :
    (s.storePlain a z v).eventReg = s.eventReg := rfl
@[simp] theorem State.storePlain_waiting (s : State) (a : Word) (z : Size) (v : Word) :
    (s.storePlain a z v).waiting = s.waiting := rfl
@[simp] theorem State.storePlain_lockup (s : State) (a : Word) (z : Size) (v : Word) :
    (s.storePlain a z v).lockup = s.lockup := rfl
@[simp] theorem State.storePlain_active (s : State) (a : Word) (z : Size) (v : Word) :
    (s.storePlain a z v).active = s.active := rfl
@[simp] theorem State.storePlain_scs (s : State) (a : Word) (z : Size) (v : Word) :
    (s.storePlain a z v).scs = s.scs := rfl
@[simp] theorem State.storePlain_mem (s : State) (a : Word) (z : Size) (v : Word) :
    (s.storePlain a z v).mem = s.mem.store a z.bytes v := rfl
@[simp] theorem State.storePlain_dirty (s : State) (a : Word) (z : Size) (v : Word) :
    (s.storePlain a z v).dirty = markBytes a z.bytes s.dirty := rfl
@[simp] theorem State.storePlain_deviceLog (s : State) (a : Word) (z : Size) (v : Word) :
    (s.storePlain a z v).deviceLog = s.deviceLog := rfl
@[simp] theorem State.storePlain_env (s : State) (a : Word) (z : Size) (v : Word) :
    (s.storePlain a z v).env = s.env := rfl
@[simp] theorem State.storePlain_wakeUp (s : State) (a : Word) (z : Size) (v : Word) :
    (s.storePlain a z v).wakeUp = s.wakeUp := rfl
@[simp] theorem State.storePlain_freeIdx (s : State) (a : Word) (z : Size) (v : Word) :
    (s.storePlain a z v).freeIdx = s.freeIdx := rfl
@[simp] theorem State.storePlain_cfg (s : State) (a : Word) (z : Size) (v : Word) :
    (s.storePlain a z v).cfg = s.cfg := rfl

/-! ### `storeShared` -/

@[simp] theorem State.storeShared_regs (s : State) (a : Word) (z : Size) (v : Word) :
    (s.storeShared a z v).regs = s.regs := rfl
@[simp] theorem State.storeShared_lr (s : State) (a : Word) (z : Size) (v : Word) :
    (s.storeShared a z v).lr = s.lr := rfl
@[simp] theorem State.storeShared_msp (s : State) (a : Word) (z : Size) (v : Word) :
    (s.storeShared a z v).msp = s.msp := rfl
@[simp] theorem State.storeShared_psp (s : State) (a : Word) (z : Size) (v : Word) :
    (s.storeShared a z v).psp = s.psp := rfl
@[simp] theorem State.storeShared_pc (s : State) (a : Word) (z : Size) (v : Word) :
    (s.storeShared a z v).pc = s.pc := rfl
@[simp] theorem State.storeShared_flags (s : State) (a : Word) (z : Size) (v : Word) :
    (s.storeShared a z v).flags = s.flags := rfl
@[simp] theorem State.storeShared_ipsr (s : State) (a : Word) (z : Size) (v : Word) :
    (s.storeShared a z v).ipsr = s.ipsr := rfl
@[simp] theorem State.storeShared_epsrT (s : State) (a : Word) (z : Size) (v : Word) :
    (s.storeShared a z v).epsrT = s.epsrT := rfl
@[simp] theorem State.storeShared_pm (s : State) (a : Word) (z : Size) (v : Word) :
    (s.storeShared a z v).pm = s.pm := rfl
@[simp] theorem State.storeShared_spsel (s : State) (a : Word) (z : Size) (v : Word) :
    (s.storeShared a z v).spsel = s.spsel := rfl
@[simp] theorem State.storeShared_mode (s : State) (a : Word) (z : Size) (v : Word) :
    (s.storeShared a z v).mode = s.mode := rfl
@[simp] theorem State.storeShared_eventReg (s : State) (a : Word) (z : Size) (v : Word) :
    (s.storeShared a z v).eventReg = s.eventReg := rfl
@[simp] theorem State.storeShared_waiting (s : State) (a : Word) (z : Size) (v : Word) :
    (s.storeShared a z v).waiting = s.waiting := rfl
@[simp] theorem State.storeShared_lockup (s : State) (a : Word) (z : Size) (v : Word) :
    (s.storeShared a z v).lockup = s.lockup := rfl
@[simp] theorem State.storeShared_active (s : State) (a : Word) (z : Size) (v : Word) :
    (s.storeShared a z v).active = s.active := rfl
@[simp] theorem State.storeShared_scs (s : State) (a : Word) (z : Size) (v : Word) :
    (s.storeShared a z v).scs = s.scs := rfl
@[simp] theorem State.storeShared_mem (s : State) (a : Word) (z : Size) (v : Word) :
    (s.storeShared a z v).mem = storePlainBytes s.cfg s.mem a z.bytes v := rfl
@[simp] theorem State.storeShared_dirty (s : State) (a : Word) (z : Size) (v : Word) :
    (s.storeShared a z v).dirty = markBytes a z.bytes s.dirty := rfl
@[simp] theorem State.storeShared_deviceLog (s : State) (a : Word) (z : Size) (v : Word) :
    (s.storeShared a z v).deviceLog = s.deviceLog := rfl
@[simp] theorem State.storeShared_env (s : State) (a : Word) (z : Size) (v : Word) :
    (s.storeShared a z v).env = s.env := rfl
@[simp] theorem State.storeShared_wakeUp (s : State) (a : Word) (z : Size) (v : Word) :
    (s.storeShared a z v).wakeUp = s.wakeUp := rfl
@[simp] theorem State.storeShared_freeIdx (s : State) (a : Word) (z : Size) (v : Word) :
    (s.storeShared a z v).freeIdx = s.freeIdx := rfl
@[simp] theorem State.storeShared_cfg (s : State) (a : Word) (z : Size) (v : Word) :
    (s.storeShared a z v).cfg = s.cfg := rfl

/-! ### `writeDevice` -/

@[simp] theorem State.writeDevice_regs (s : State) (a : Word) (z : Size) (v : Word) :
    (s.writeDevice a z v).regs = s.regs := rfl
@[simp] theorem State.writeDevice_lr (s : State) (a : Word) (z : Size) (v : Word) :
    (s.writeDevice a z v).lr = s.lr := rfl
@[simp] theorem State.writeDevice_msp (s : State) (a : Word) (z : Size) (v : Word) :
    (s.writeDevice a z v).msp = s.msp := rfl
@[simp] theorem State.writeDevice_psp (s : State) (a : Word) (z : Size) (v : Word) :
    (s.writeDevice a z v).psp = s.psp := rfl
@[simp] theorem State.writeDevice_pc (s : State) (a : Word) (z : Size) (v : Word) :
    (s.writeDevice a z v).pc = s.pc := rfl
@[simp] theorem State.writeDevice_flags (s : State) (a : Word) (z : Size) (v : Word) :
    (s.writeDevice a z v).flags = s.flags := rfl
@[simp] theorem State.writeDevice_ipsr (s : State) (a : Word) (z : Size) (v : Word) :
    (s.writeDevice a z v).ipsr = s.ipsr := rfl
@[simp] theorem State.writeDevice_epsrT (s : State) (a : Word) (z : Size) (v : Word) :
    (s.writeDevice a z v).epsrT = s.epsrT := rfl
@[simp] theorem State.writeDevice_pm (s : State) (a : Word) (z : Size) (v : Word) :
    (s.writeDevice a z v).pm = s.pm := rfl
@[simp] theorem State.writeDevice_spsel (s : State) (a : Word) (z : Size) (v : Word) :
    (s.writeDevice a z v).spsel = s.spsel := rfl
@[simp] theorem State.writeDevice_mode (s : State) (a : Word) (z : Size) (v : Word) :
    (s.writeDevice a z v).mode = s.mode := rfl
@[simp] theorem State.writeDevice_eventReg (s : State) (a : Word) (z : Size) (v : Word) :
    (s.writeDevice a z v).eventReg = s.eventReg := rfl
@[simp] theorem State.writeDevice_waiting (s : State) (a : Word) (z : Size) (v : Word) :
    (s.writeDevice a z v).waiting = s.waiting := rfl
@[simp] theorem State.writeDevice_lockup (s : State) (a : Word) (z : Size) (v : Word) :
    (s.writeDevice a z v).lockup = s.lockup := rfl
@[simp] theorem State.writeDevice_active (s : State) (a : Word) (z : Size) (v : Word) :
    (s.writeDevice a z v).active = s.active := rfl
@[simp] theorem State.writeDevice_scs (s : State) (a : Word) (z : Size) (v : Word) :
    (s.writeDevice a z v).scs = s.scs := rfl
@[simp] theorem State.writeDevice_mem (s : State) (a : Word) (z : Size) (v : Word) :
    (s.writeDevice a z v).mem = storePlainBytes s.cfg s.mem a z.bytes v := rfl
@[simp] theorem State.writeDevice_dirty (s : State) (a : Word) (z : Size) (v : Word) :
    (s.writeDevice a z v).dirty = markBytes a z.bytes s.dirty := rfl
@[simp] theorem State.writeDevice_deviceLog (s : State) (a : Word) (z : Size) (v : Word) :
    (s.writeDevice a z v).deviceLog = s.deviceLog ++ [⟨.write, a, z, v &&& z.mask⟩] := rfl
@[simp] theorem State.writeDevice_env (s : State) (a : Word) (z : Size) (v : Word) :
    (s.writeDevice a z v).env = s.env := rfl
@[simp] theorem State.writeDevice_wakeUp (s : State) (a : Word) (z : Size) (v : Word) :
    (s.writeDevice a z v).wakeUp = s.wakeUp := rfl
@[simp] theorem State.writeDevice_freeIdx (s : State) (a : Word) (z : Size) (v : Word) :
    (s.writeDevice a z v).freeIdx = s.freeIdx := rfl
@[simp] theorem State.writeDevice_cfg (s : State) (a : Word) (z : Size) (v : Word) :
    (s.writeDevice a z v).cfg = s.cfg := rfl

/-! ### `entryFailed` -/

@[simp] theorem State.entryFailed_regs (s : State) (n : Nat) : (s.entryFailed n).regs = s.regs := rfl
@[simp] theorem State.entryFailed_lr (s : State) (n : Nat) : (s.entryFailed n).lr = s.lr := rfl
@[simp] theorem State.entryFailed_msp (s : State) (n : Nat) : (s.entryFailed n).msp = s.msp := rfl
@[simp] theorem State.entryFailed_psp (s : State) (n : Nat) : (s.entryFailed n).psp = s.psp := rfl
@[simp] theorem State.entryFailed_pc (s : State) (n : Nat) : (s.entryFailed n).pc = s.pc := rfl
@[simp] theorem State.entryFailed_flags (s : State) (n : Nat) : (s.entryFailed n).flags = s.flags := rfl
@[simp] theorem State.entryFailed_ipsr (s : State) (n : Nat) : (s.entryFailed n).ipsr = s.ipsr := rfl
@[simp] theorem State.entryFailed_epsrT (s : State) (n : Nat) : (s.entryFailed n).epsrT = s.epsrT := rfl
@[simp] theorem State.entryFailed_pm (s : State) (n : Nat) : (s.entryFailed n).pm = s.pm := rfl
@[simp] theorem State.entryFailed_spsel (s : State) (n : Nat) : (s.entryFailed n).spsel = s.spsel := rfl
@[simp] theorem State.entryFailed_mode (s : State) (n : Nat) : (s.entryFailed n).mode = s.mode := rfl
@[simp] theorem State.entryFailed_eventReg (s : State) (n : Nat) : (s.entryFailed n).eventReg = s.eventReg := rfl
@[simp] theorem State.entryFailed_waiting (s : State) (n : Nat) : (s.entryFailed n).waiting = s.waiting := rfl
@[simp] theorem State.entryFailed_lockup (s : State) (n : Nat) : (s.entryFailed n).lockup = s.lockup := rfl
@[simp] theorem State.entryFailed_active (s : State) (n : Nat) : (s.entryFailed n).active = s.active := rfl
@[simp] theorem State.entryFailed_scs (s : State) (n : Nat) : (s.entryFailed n).scs = s.scs.clearPending n := rfl
@[simp] theorem State.entryFailed_mem (s : State) (n : Nat) : (s.entryFailed n).mem = s.mem := rfl
@[simp] theorem State.entryFailed_dirty (s : State) (n : Nat) : (s.entryFailed n).dirty = s.dirty := rfl
@[simp] theorem State.entryFailed_deviceLog (s : State) (n : Nat) : (s.entryFailed n).deviceLog = s.deviceLog := rfl
@[simp] theorem State.entryFailed_env (s : State) (n : Nat) : (s.entryFailed n).env = s.env := rfl
@[simp] theorem State.entryFailed_wakeUp (s : State) (n : Nat) : (s.entryFailed n).wakeUp = s.wakeUp := rfl
@[simp] theorem State.entryFailed_freeIdx (s : State) (n : Nat) : (s.entryFailed n).freeIdx = s.freeIdx := rfl
@[simp] theorem State.entryFailed_cfg (s : State) (n : Nat) : (s.entryFailed n).cfg = s.cfg := rfl

/-! ### `enterHandler` -/

@[simp] theorem State.enterHandler_regs (s : State) (s0 : State) (n : Nat) (v : Word) :
    (s.enterHandler s0 n v).regs = s.regs := rfl
@[simp] theorem State.enterHandler_lr (s : State) (s0 : State) (n : Nat) (v : Word) :
    (s.enterHandler s0 n v).lr = s0.excReturn := rfl
@[simp] theorem State.enterHandler_msp (s : State) (s0 : State) (n : Nat) (v : Word) :
    (s.enterHandler s0 n v).msp = if s0.usesPsp then s.msp else s0.frameAddr := rfl
@[simp] theorem State.enterHandler_psp (s : State) (s0 : State) (n : Nat) (v : Word) :
    (s.enterHandler s0 n v).psp = if s0.usesPsp then s0.frameAddr else s.psp := rfl
@[simp] theorem State.enterHandler_pc (s : State) (s0 : State) (n : Nat) (v : Word) :
    (s.enterHandler s0 n v).pc = clearBit0 v := rfl
@[simp] theorem State.enterHandler_flags (s : State) (s0 : State) (n : Nat) (v : Word) :
    (s.enterHandler s0 n v).flags = s.flags := rfl
@[simp] theorem State.enterHandler_ipsr (s : State) (s0 : State) (n : Nat) (v : Word) :
    (s.enterHandler s0 n v).ipsr = BitVec.ofNat 6 n := rfl
@[simp] theorem State.enterHandler_epsrT (s : State) (s0 : State) (n : Nat) (v : Word) :
    (s.enterHandler s0 n v).epsrT = v.getLsbD 0 := rfl
@[simp] theorem State.enterHandler_pm (s : State) (s0 : State) (n : Nat) (v : Word) :
    (s.enterHandler s0 n v).pm = s.pm := rfl
@[simp] theorem State.enterHandler_spsel (s : State) (s0 : State) (n : Nat) (v : Word) :
    (s.enterHandler s0 n v).spsel = false := rfl
@[simp] theorem State.enterHandler_mode (s : State) (s0 : State) (n : Nat) (v : Word) :
    (s.enterHandler s0 n v).mode = .handler := rfl
@[simp] theorem State.enterHandler_eventReg (s : State) (s0 : State) (n : Nat) (v : Word) :
    (s.enterHandler s0 n v).eventReg = true := rfl
@[simp] theorem State.enterHandler_waiting (s : State) (s0 : State) (n : Nat) (v : Word) :
    (s.enterHandler s0 n v).waiting = none := rfl
@[simp] theorem State.enterHandler_lockup (s : State) (s0 : State) (n : Nat) (v : Word) :
    (s.enterHandler s0 n v).lockup = false := rfl
@[simp] theorem State.enterHandler_active (s : State) (s0 : State) (n : Nat) (v : Word) :
    (s.enterHandler s0 n v).active = n :: s.active := rfl
@[simp] theorem State.enterHandler_scs (s : State) (s0 : State) (n : Nat) (v : Word) :
    (s.enterHandler s0 n v).scs = s.scs.clearPending n := rfl
@[simp] theorem State.enterHandler_mem (s : State) (s0 : State) (n : Nat) (v : Word) :
    (s.enterHandler s0 n v).mem = s.mem := rfl
@[simp] theorem State.enterHandler_dirty (s : State) (s0 : State) (n : Nat) (v : Word) :
    (s.enterHandler s0 n v).dirty = [] := rfl
@[simp] theorem State.enterHandler_deviceLog (s : State) (s0 : State) (n : Nat) (v : Word) :
    (s.enterHandler s0 n v).deviceLog = s.deviceLog := rfl
@[simp] theorem State.enterHandler_env (s : State) (s0 : State) (n : Nat) (v : Word) :
    (s.enterHandler s0 n v).env = s.env := rfl
@[simp] theorem State.enterHandler_wakeUp (s : State) (s0 : State) (n : Nat) (v : Word) :
    (s.enterHandler s0 n v).wakeUp = s.wakeUp := rfl
@[simp] theorem State.enterHandler_freeIdx (s : State) (s0 : State) (n : Nat) (v : Word) :
    (s.enterHandler s0 n v).freeIdx = s.freeIdx := rfl
@[simp] theorem State.enterHandler_cfg (s : State) (s0 : State) (n : Nat) (v : Word) :
    (s.enterHandler s0 n v).cfg = s.cfg := rfl

/-! ### Reading back -/

theorem State.lo_setLo (s : State) (r q : BitVec 3) (v : Word) : (s.setLo r v).lo q = if r = q then v else s.lo q := by
  simp only [State.lo, State.setLo, Vector.getElem_set, BitVec.toNat_eq]

@[simp] theorem State.lo_setSp (s : State) (q : BitVec 3) (v : Word) : (s.setSp v).lo q = s.lo q := by simp [State.lo]

@[simp] theorem State.lo_advance (s : State) (q : BitVec 3) (n : Word) : (s.advance n).lo q = s.lo q := rfl

@[simp] theorem State.sp_advance (s : State) (n : Word) : (s.advance n).sp = s.sp := rfl

@[simp] theorem State.usesPsp_setSp (s : State) (v : Word) : (s.setSp v).usesPsp = s.usesPsp := by simp [State.usesPsp]

/-- The stack pointer reads as the written value with bits [1:0] cleared (R24). -/
@[simp] theorem State.sp_setSp (s : State) (v : Word) : (s.setSp v).sp = alignWord v := by
  simp only [State.sp, State.usesPsp_setSp, State.setSp_psp, State.setSp_msp]; split <;> rfl

end Sys2Proof.Machine
end

