-- ==== Sys2Proof/Laws/Inputs.lean ====
section
/-! SUPPORT. What the inputs of a boundary do (R41, R300, R301, R332), and SysTick's clocks (R322). -/

namespace Sys2Proof.Machine

/-- A pending bit of an interrupt, NMI or SysTick is set in the second and not in the first. -/
def PendsMore (c d : Scs) : Prop :=
  (∃ k < 32, d.irqPending.getLsbD k = true ∧ c.irqPending.getLsbD k = false) ∨
    (d.nmiPending = true ∧ c.nmiPending = false) ∨ (d.sysTickPending = true ∧ c.sysTickPending = false)

/-- The bits of one vector say whether a pending bit is new. -/
theorem pendingBits_new {c d : Scs} (h : d.pendSvPending = c.pendSvPending) :
    (d.pendingBits &&& ~~~c.pendingBits != 0) = true ↔ PendsMore c d := by
  have hbit : ∀ (x : Scs) (i : Nat), x.pendingBits.getLsbD i =
      if i = 0 then x.sysTickPending else if i = 1 then x.pendSvPending else if i = 2 then x.nmiPending
      else x.irqPending.getLsbD (i - 3) := by
    intro x i
    simp only [Scs.pendingBits, BitVec.getLsbD_append, BitVec.getLsbD_ofBool]
    rcases i with _ | _ | _ | i <;> simp
  rw [bne_iff_ne, ne_eq, BitVec.eq_of_getLsbD_eq_iff]
  simp only [BitVec.getLsbD_and, BitVec.getLsbD_not, hbit, PendsMore]
  constructor
  · intro hn
    by_contra hc
    apply hn
    intro i hi
    simp only [not_or, not_exists, not_and, Bool.not_eq_false] at hc
    obtain ⟨h1, h2, h3⟩ := hc
    rcases i with _ | _ | _ | i
    · simp; exact h3
    · simp [h]
    · simp; exact h2
    · simp only [Nat.add_eq_zero_iff, Nat.reduceEqDiff, and_false, if_false]
      simp
      intro hx; exact fun _ => h1 i (by omega) hx
  · rintro hc hn
    rcases hc with ⟨k, hk, h1, h2⟩ | ⟨h1, h2⟩ | ⟨h1, h2⟩
    · have := hn (k + 3) (by omega)
      simp [h1, h2] at this; omega
    · have := hn 2 (by omega)
      simp [h1, h2] at this
    · have := hn 0 (by omega)
      simp [h1, h2] at this

/-- What inputs of the environment do: each sets its bit, and with `SEVONPEND` what becomes pending is an event. -/
def Received (es : List EnvEvent) (s t : State) : Prop :=
  t.env = s.env ∧ (t.wakeUp = true ↔ s.wakeUp = true ∨ .wakeUp ∈ es) ∧
  (∀ k : Fin 32, t.scs.irqPending.getLsbD k.val = true ↔ s.scs.irqPending.getLsbD k.val = true ∨ .irq k ∈ es) ∧
  (t.scs.nmiPending = true ↔ s.scs.nmiPending = true ∨ .nmi ∈ es) ∧
  (t.scs.resetRequest = true ↔ s.scs.resetRequest = true ∨ .reset ∈ es) ∧
  (t.eventReg = true ↔ s.eventReg = true ∨ .event ∈ es ∨ s.scs.sevOnPend = true ∧ PendsMore s.scs t.scs) ∧
  t.scs = { s.scs with
    irqPending := t.scs.irqPending, nmiPending := t.scs.nmiPending, resetRequest := t.scs.resetRequest }

theorem PendsMore.irrefl (c : Scs) : ¬ PendsMore c c := by
  simp [PendsMore]

/-- A change of the pending bits is an event exactly with `SEVONPEND` and a new one. -/
theorem State.withPending_event (s : State) (x : Scs) (h : x.pendSvPending = s.scs.pendSvPending) :
    (s.withPending x).eventReg = true ↔
      s.eventReg = true ∨ s.scs.sevOnPend = true ∧ PendsMore s.scs x := by
  unfold State.withPending
  simp only [Bool.or_eq_true, Bool.and_eq_true]
  rw [← pendingBits_new h]

/-- The pending bits of interrupts, NMI and SysTick only grow. -/
def PendsGrow (c d : Scs) : Prop :=
  (∀ k < 32, c.irqPending.getLsbD k = true → d.irqPending.getLsbD k = true) ∧
    (c.nmiPending = true → d.nmiPending = true) ∧ (c.sysTickPending = true → d.sysTickPending = true)

theorem PendsMore.trans_iff {c d e : Scs} (h : PendsGrow c d) (k : PendsGrow d e) :
    PendsMore c e ↔ PendsMore c d ∨ PendsMore d e := by
  obtain ⟨h1, h2, h3⟩ := h
  obtain ⟨k1, k2, k3⟩ := k
  unfold PendsMore
  constructor
  · rintro (⟨i, hi, he, hc⟩ | ⟨he, hc⟩ | ⟨he, hc⟩)
    · by_cases hd : d.irqPending.getLsbD i = true
      · exact .inl (.inl ⟨i, hi, hd, hc⟩)
      · exact .inr (.inl ⟨i, hi, he, by simpa using hd⟩)
    · by_cases hd : d.nmiPending = true
      · exact .inl (.inr (.inl ⟨hd, hc⟩))
      · exact .inr (.inr (.inl ⟨he, by simpa using hd⟩))
    · by_cases hd : d.sysTickPending = true
      · exact .inl (.inr (.inr ⟨hd, hc⟩))
      · exact .inr (.inr (.inr ⟨he, by simpa using hd⟩))
  · rintro ((⟨i, hi, hd, hc⟩ | ⟨hd, hc⟩ | ⟨hd, hc⟩) | (⟨i, hi, he, hd⟩ | ⟨he, hd⟩ | ⟨he, hd⟩))
    · exact .inl ⟨i, hi, k1 i hi hd, hc⟩
    · exact .inr (.inl ⟨k2 hd, hc⟩)
    · exact .inr (.inr ⟨k3 hd, hc⟩)
    · exact .inl ⟨i, hi, he, by simpa using mt (h1 i hi) (by simp [hd])⟩
    · exact .inr (.inl ⟨he, by simpa using mt h2 (by simp [hd])⟩)
    · exact .inr (.inr ⟨he, by simpa using mt h3 (by simp [hd])⟩)

theorem Received.grow {es : List EnvEvent} {s t : State} (h : Received es s t) : PendsGrow s.scs t.scs := by
  obtain ⟨-, -, h3, h4, -, -, h7⟩ := h
  exact ⟨fun k hk h => (h3 ⟨k, hk⟩).2 (.inl h), fun h => h4.2 (.inl h), by rw [h7]; exact id⟩

theorem Received.trans {es fs : List EnvEvent} {s t u : State} (h : Received es s t) (k : Received fs t u) :
    Received (es ++ fs) s u := by
  have hg := PendsMore.trans_iff h.grow k.grow
  obtain ⟨a1, a2, a3, a4, a5, a6, a7⟩ := h
  obtain ⟨b1, b2, b3, b4, b5, b6, b7⟩ := k
  have hs : t.scs.sevOnPend = s.scs.sevOnPend := by rw [a7]
  refine ⟨b1.trans a1, ?_, ?_, ?_, ?_, ?_, ?_⟩
  · rw [b2, a2, List.mem_append, or_assoc]
  · intro k
    rw [b3, a3, List.mem_append, or_assoc]
  · rw [b4, a4, List.mem_append, or_assoc]
  · rw [b5, a5, List.mem_append, or_assoc]
  · rw [b6, a6, hs, hg, List.mem_append, and_or_left]
    exact iff_of_eq (by ac_rfl)
  · exact b7.trans (by rw [a7])

theorem State.receive_received (s : State) (e : EnvEvent) : Received [e] s (s.receive e) := by
  cases e with
  | irq n =>
    refine ⟨rfl, by simp [State.receive], fun k => ?_, by simp [State.receive], by simp [State.receive], ?_, rfl⟩
    · simp only [State.receive, State.pendIrqs_scs, BitVec.getLsbD_or, Bool.or_eq_true, List.mem_singleton,
        EnvEvent.irq.injEq]
      refine or_congr Iff.rfl ?_
      simp [Fin.ext_iff]
      omega
    · exact (State.withPending_event s { s.scs with irqPending := s.scs.irqPending ||| 1#32 <<< n.val } rfl).trans
        (by simp [State.receive])
  | nmi =>
    refine ⟨rfl, by simp [State.receive], by simp [State.receive], by simp [State.receive], by simp [State.receive], ?_,
      by simp [State.receive]⟩
    exact (State.withPending_event s _ (Bool.or_false _)).trans (by simp [State.receive])
  | event => refine ⟨rfl, ?_, ?_, ?_, ?_, ?_, rfl⟩ <;> simp [State.receive]
  | wakeUp => refine ⟨rfl, ?_, ?_, ?_, ?_, ?_, rfl⟩ <;> simp [State.receive, PendsMore.irrefl]
  | reset => refine ⟨rfl, ?_, ?_, ?_, ?_, ?_, rfl⟩ <;> simp [State.receive, PendsMore]

theorem State.receive_all_received (es : List EnvEvent) (s : State) : Received es s (es.foldl State.receive s) := by
  induction es generalizing s with
  | nil => refine ⟨rfl, ?_, ?_, ?_, ?_, ?_, rfl⟩ <;> simp [PendsMore.irrefl]
  | cons e es ih => exact (s.receive_received e).trans (ih _)
/-- The inputs of a boundary are those of the head of `env`; a wake-up of the boundary before is gone. -/
theorem State.boundary_eq (s : State) : ∃ t,
    Received (s.env.headD []) { s with env := s.env.tail, wakeUp := false } t ∧ s.boundary = t.sysTickRun := by
  unfold State.boundary
  split
  · next h => exact ⟨_, by rw [h]; exact State.receive_all_received [] _, by simp [h]⟩
  · next es rest h => exact ⟨_, by rw [h]; exact State.receive_all_received es _, by simp⟩

/-- What SysTick does at a boundary: nothing where it is disabled; else some number of clocks pass, and a count to 0 may
make its exception pending. -/
theorem State.sysTickRun_cases (s : State) :
    (s.scs.sysTick.enable = false ∧ s.sysTickRun = s) ∨
    (s.scs.sysTick.enable = true ∧ ∃ n, ∃ u : State,
      u = { s with freeIdx := s.freeIdx + 1, scs := { s.scs with sysTick := (SysTick.clocks n s.scs.sysTick).1 } } ∧
      s.sysTickRun =
        u.pendSystem false false ((SysTick.clocks n s.scs.sysTick).2 && s.scs.sysTick.tickInt)) := by
  unfold State.sysTickRun
  cases h : s.scs.sysTick.enable with
  | false => exact .inl ⟨rfl, by simp⟩
  | true => exact .inr ⟨rfl, Config.sysTickClocks s.freeIdx, _, rfl, by simp only [if_true]⟩

end Sys2Proof.Machine
end

