-- ==== Sys2Proof/Laws/Memory.lean ====
section
/-! SUPPORT. Laws of memory: reading after writing, the canonical form, multi-byte loads and stores, the marks of
R67. -/

namespace Sys2Proof.Machine

/-! ### One byte -/

@[simp] theorem Memory.read_nil (a : Nat) : Memory.read [] a = unlistedByte := rfl

theorem Memory.read_cons (k : Nat) (c : Byte) (m : Memory) (a : Nat) :
    Memory.read ((k, c) :: m) a = if k = a then c else m.read a := rfl

theorem Memory.read_filter_ne (m : Memory) (a b : Nat) :
    Memory.read (m.filter fun e => e.1 != a) b = if b = a then unlistedByte else m.read b := by
  induction m with
  | nil => simp
  | cons e m ih =>
    obtain ⟨k, c⟩ := e
    by_cases hk : k = a
    · subst hk
      simp only [List.filter_cons, bne_self_eq_false, Bool.false_eq_true, if_false, ih, Memory.read_cons]
      by_cases hb : b = k
      · simp [hb]
      · simp [hb, Ne.symm hb]
    · have h1 : (k != a) = true := by simpa using hk
      simp only [List.filter_cons, h1, if_true, Memory.read_cons, ih]
      by_cases hb : k = b
      · subst hb; simp [hk]
      · simp [hb]

theorem Memory.read_place (m : Memory) (a b : Nat) (v : Byte) (h : m.read a = unlistedByte)
    (hk : ∀ e ∈ m, e.1 ≠ a) : Memory.read (m.place a v) b = if b = a then v else m.read b := by
  induction m with
  | nil =>
    simp only [Memory.place, Memory.read_cons, Memory.read_nil]
    by_cases hb : a = b <;> simp [hb, eq_comm]
  | cons e m ih =>
    obtain ⟨k, c⟩ := e
    have hka : k ≠ a := hk (k, c) (by simp)
    have hm : ∀ e ∈ m, e.1 ≠ a := fun e he => hk e (by simp [he])
    have hr : Memory.read m a = unlistedByte := by simpa [Memory.read_cons, hka] using h
    by_cases hlt : a < k
    · simp only [Memory.place, hlt, if_true]
      rw [Memory.read_cons]
      by_cases hb : a = b
      · simp [hb]
      · simp [hb, Ne.symm hb]
    · simp only [Memory.place, hlt, if_false]
      rw [Memory.read_cons, Memory.read_cons, ih hr hm]
      by_cases hb : k = b
      · subst hb; simp [hka]
      · simp [hb]

/-- Reading after writing a byte: the written value at its address, the old one elsewhere. -/
theorem Memory.read_write (m : Memory) (a b : Nat) (v : Byte) :
    (m.write a v).read b = if b = a then v else m.read b := by
  unfold Memory.write
  split
  · next h => rw [Memory.read_filter_ne]; split <;> simp_all
  · rw [Memory.read_place _ _ _ _ (by rw [Memory.read_filter_ne]; simp) (by simp)]
    rw [Memory.read_filter_ne]
    split <;> rfl

@[simp] theorem Memory.read_write_same (m : Memory) (a : Nat) (v : Byte) : (m.write a v).read a = v := by
  simp [Memory.read_write]

theorem Memory.read_write_other (m : Memory) {a b : Nat} (v : Byte) (h : b ≠ a) : (m.write a v).read b = m.read b := by
  simp [Memory.read_write, h]

/-! ### The canonical form -/

theorem Memory.wfFrom_cons {lo k : Nat} {c : Byte} {m : Memory} :
    Memory.wfFrom lo ((k, c) :: m) = true ↔
      lo ≤ k ∧ k < 2 ^ 32 ∧ c ≠ unlistedByte ∧ Memory.wfFrom (k + 1) m = true := by
  simp [Memory.wfFrom, and_assoc]

theorem Memory.wfFrom_mono {lo lo' : Nat} {m : Memory} (h : Memory.wfFrom lo m = true) (hl : lo' ≤ lo) :
    Memory.wfFrom lo' m = true := by
  cases m with
  | nil => rfl
  | cons e m =>
    obtain ⟨k, c⟩ := e
    rw [Memory.wfFrom_cons] at h ⊢
    exact ⟨Nat.le_trans hl h.1, h.2⟩

theorem Memory.wfFrom_filter {lo : Nat} {m : Memory} (a : Nat) (h : Memory.wfFrom lo m = true) :
    Memory.wfFrom lo (m.filter fun e => e.1 != a) = true := by
  induction m generalizing lo with
  | nil => rfl
  | cons e m ih =>
    obtain ⟨k, c⟩ := e
    rw [Memory.wfFrom_cons] at h
    by_cases hk : k = a
    · subst hk
      simp only [List.filter_cons, bne_self_eq_false, Bool.false_eq_true, if_false]
      exact Memory.wfFrom_mono (ih h.2.2.2) (Nat.le_succ_of_le h.1)
    · have h1 : (k != a) = true := by simpa using hk
      simp only [List.filter_cons, h1, if_true]
      rw [Memory.wfFrom_cons]
      exact ⟨h.1, h.2.1, h.2.2.1, ih h.2.2.2⟩

theorem Memory.wfFrom_place {lo a : Nat} {m : Memory} {v : Byte} (h : Memory.wfFrom lo m = true) (hlo : lo ≤ a)
    (ha : a < 2 ^ 32) (hv : v ≠ unlistedByte) (hk : ∀ e ∈ m, e.1 ≠ a) : Memory.wfFrom lo (m.place a v) = true := by
  induction m generalizing lo with
  | nil => simp only [Memory.place]; rw [Memory.wfFrom_cons]; exact ⟨hlo, ha, hv, rfl⟩
  | cons e m ih =>
    obtain ⟨k, c⟩ := e
    have hka : k ≠ a := hk (k, c) (by simp)
    have hm : ∀ e ∈ m, e.1 ≠ a := fun e he => hk e (by simp [he])
    rw [Memory.wfFrom_cons] at h
    by_cases hlt : a < k
    · simp only [Memory.place, hlt, if_true]
      rw [Memory.wfFrom_cons, Memory.wfFrom_cons]
      exact ⟨hlo, ha, hv, hlt, h.2⟩
    · simp only [Memory.place, hlt, if_false]
      rw [Memory.wfFrom_cons]
      exact ⟨h.1, h.2.1, h.2.2.1, ih h.2.2.2 (show k + 1 ≤ a by omega) hm⟩

/-- A byte written below 2^32 keeps the canonical form. -/
theorem Memory.wf_write {m : Memory} {a : Nat} {v : Byte} (h : m.wf = true) (ha : a < 2 ^ 32) :
    (m.write a v).wf = true := by
  unfold Memory.write Memory.wf
  split
  · exact Memory.wfFrom_filter a h
  · next hv => exact Memory.wfFrom_place (Memory.wfFrom_filter a h) (Nat.zero_le _) ha hv (by simp)

theorem Memory.wf_store {m : Memory} (h : m.wf = true) (a v : Word) (n : Nat) : (m.store a n v).wf = true := by
  induction n generalizing m a v with
  | zero => exact h
  | succ n ih => exact ih (Memory.wf_write h a.isLt) _ _

/-- A store to what of its bytes is plain memory keeps the canonical form. -/
theorem Memory.wf_storePlainBytes (c : Config) {m : Memory} (h : m.wf = true) (a v : Word) (n : Nat) :
    (storePlainBytes c m a n v).wf = true := by
  induction n generalizing m a v with
  | zero => exact h
  | succ n ih =>
    simp only [storePlainBytes]
    apply ih
    split
    · exact Memory.wf_write h a.isLt
    · exact h

theorem Memory.wf_nil : Memory.wf [] = true := rfl

theorem Memory.read_of_wfFrom {lo a : Nat} {m : Memory} (h : Memory.wfFrom lo m = true) (ha : a < lo) :
    m.read a = unlistedByte := by
  induction m generalizing lo with
  | nil => rfl
  | cons e m ih =>
    obtain ⟨k, c⟩ := e
    rw [Memory.wfFrom_cons] at h
    rw [Memory.read_cons, if_neg (by omega)]
    exact ih h.2.2.2 (Nat.lt_of_lt_of_le ha (by omega))

/-! ### Addresses -/

/-- The `k`-th of a few addresses up. -/
theorem toNat_add_ofNat_inj {a : Word} {i j : Nat} (hi : i < 2 ^ 32) (hj : j < 2 ^ 32)
    (h : (a + BitVec.ofNat 32 i).toNat = (a + BitVec.ofNat 32 j).toNat) : i = j := by
  have h2 : a + BitVec.ofNat 32 i = a + BitVec.ofNat 32 j := BitVec.eq_of_toNat_eq h
  have h3 := add_left_cancel h2
  have h4 := congrArg BitVec.toNat h3
  rwa [BitVec.toNat_ofNat, BitVec.toNat_ofNat, Nat.mod_eq_of_lt hi, Nat.mod_eq_of_lt hj] at h4

theorem add_one_add_ofNat (a : Word) (k : Nat) : a + 1 + BitVec.ofNat 32 k = a + BitVec.ofNat 32 (k + 1) := by
  rw [BitVec.add_assoc]
  congr 1
  apply BitVec.eq_of_toNat_eq
  simp [Nat.add_comm]

/-! ### Several bytes -/

/-- A store changes no byte outside its own. -/
theorem Memory.read_store_other (m : Memory) (a v : Word) (n : Nat) (b : Nat)
    (h : ∀ k < n, b ≠ (a + BitVec.ofNat 32 k).toNat) : (m.store a n v).read b = m.read b := by
  induction n generalizing m a v with
  | zero => rfl
  | succ n ih =>
    simp only [Memory.store]
    rw [ih]
    · exact Memory.read_write_other _ _ (by simpa using h 0 (by omega))
    · intro k hk
      rw [add_one_add_ofNat]
      exact h (k + 1) (by omega)

/-- The bytes of a store, the least significant at the lowest address. -/
theorem Memory.read_store_same (m : Memory) (a v : Word) (n k : Nat) (hn : n ≤ 2 ^ 32) (hk : k < n) :
    (m.store a n v).read (a + BitVec.ofNat 32 k).toNat = v.extractLsb' (8 * k) 8 := by
  induction n generalizing m a v k with
  | zero => omega
  | succ n ih =>
    simp only [Memory.store]
    cases k with
    | zero =>
      rw [Memory.read_store_other]
      · simp only [BitVec.add_zero, Memory.read_write_same]
        apply BitVec.eq_of_getLsbD_eq
        intro i hi
        simp [hi]
      · intro j hj
        rw [add_one_add_ofNat]
        intro hc
        have := toNat_add_ofNat_inj (i := 0) (j := j + 1) (by omega) (by omega) (by simpa using hc)
        omega
    | succ k =>
      rw [← add_one_add_ofNat, ih _ _ _ _ (by omega) (by omega)]
      apply BitVec.eq_of_getLsbD_eq
      intro i hi
      simp only [BitVec.getLsbD_extractLsb', hi, decide_true, Bool.true_and, BitVec.getLsbD_ushiftRight]
      congr 1
      omega

/-- The value of a load, as the sum of its bytes (R54). -/
theorem Memory.load_toNat (m : Memory) (a : Word) (n : Nat) (hn : n ≤ 4) :
    (m.load a n).toNat = ((List.range n).map fun i => (m.read (a + BitVec.ofNat 32 i).toNat).toNat * 256 ^ i).sum ∧
      (m.load a n).toNat < 256 ^ n := by
  induction n generalizing a with
  | zero => simp [Memory.load]
  | succ n ih =>
    obtain ⟨h1, h2⟩ := ih (a + 1) (by omega)
    have hb := (m.read a.toNat).isLt
    have hp : 256 ^ n ≤ 256 ^ 3 := Nat.pow_le_pow_right (by omega) (by omega)
    have hs : (Memory.load m (a + 1) n <<< 8).toNat = (Memory.load m (a + 1) n).toNat * 256 := by
      rw [BitVec.toNat_shiftLeft, Nat.shiftLeft_eq, Nat.mod_eq_of_lt]
      omega
    have hor : (Memory.load m a (n + 1)).toNat = (m.read a.toNat).toNat + (Memory.load m (a + 1) n).toNat * 256 := by
      simp only [Memory.load]
      rw [BitVec.toNat_or, hs, BitVec.toNat_setWidth, Nat.mod_eq_of_lt (by omega)]
      have := Nat.two_pow_add_eq_or_of_lt (i := 8) hb (Memory.load m (a + 1) n).toNat
      rw [Nat.or_comm, show (Memory.load m (a + 1) n).toNat * 256 = 2 ^ 8 * (Memory.load m (a + 1) n).toNat by omega]
      omega
    constructor
    · rw [hor, h1, List.range_succ_eq_map, List.map_cons, List.sum_cons, List.map_map]
      have hz : (a + BitVec.ofNat 32 0) = a := by simp
      rw [hz]
      congr 1
      · simp
      · rw [← List.sum_map_mul_right]
        congr 1
        apply List.map_congr_left
        intro i _
        simp only [Function.comp_apply, Nat.succ_eq_add_one, add_one_add_ofNat, Nat.pow_succ]
        rw [Nat.mul_assoc]
    · rw [hor, Nat.pow_succ]
      omega

/-! ### The plain bytes of an access -/

/-- A store to the plain bytes of an access changes no other byte. -/
theorem Memory.read_storePlainBytes_other (c : Config) (m : Memory) (a v : Word) (n b : Nat)
    (h : ∀ k < n, byteClass c .write (a + BitVec.ofNat 32 k).toNat = some .plain → b ≠ (a + BitVec.ofNat 32 k).toNat) :
    (storePlainBytes c m a n v).read b = m.read b := by
  induction n generalizing m a v with
  | zero => rfl
  | succ n ih =>
    simp only [storePlainBytes]
    rw [ih _ _ _ (fun k hk => by rw [add_one_add_ofNat]; exact h (k + 1) (by omega))]
    split
    · next hp => exact Memory.read_write_other _ _ (by simpa using h 0 (by omega) (by simpa using hp))
    · rfl

/-- The plain bytes of an access hold their bytes of the value stored. -/
theorem Memory.read_storePlainBytes_same (c : Config) (m : Memory) (a v : Word) (n k : Nat) (hn : n ≤ 2 ^ 32) (hk : k < n)
    (hp : byteClass c .write (a + BitVec.ofNat 32 k).toNat = some .plain) :
    (storePlainBytes c m a n v).read (a + BitVec.ofNat 32 k).toNat = v.extractLsb' (8 * k) 8 := by
  induction n generalizing m a v k with
  | zero => omega
  | succ n ih =>
    simp only [storePlainBytes]
    cases k with
    | zero =>
      simp only [BitVec.add_zero] at hp
      rw [if_pos hp, Memory.read_storePlainBytes_other]
      · simp only [BitVec.add_zero, Memory.read_write_same]
        apply BitVec.eq_of_getLsbD_eq
        intro i hi
        simp [hi]
      · intro j hj _
        rw [add_one_add_ofNat]
        intro hc
        have := toNat_add_ofNat_inj (i := 0) (j := j + 1) (by omega) (by omega) (by simpa using hc)
        omega
    | succ k =>
      rw [← add_one_add_ofNat] at hp ⊢
      rw [ih _ _ _ _ (by omega) (by omega) hp]
      apply BitVec.eq_of_getLsbD_eq
      intro i hi
      simp only [BitVec.getLsbD_extractLsb', hi, decide_true, Bool.true_and, BitVec.getLsbD_ushiftRight]
      congr 1
      omega

/-- An access that is all plain memory, or all the system's, has only bytes of that kind. -/
theorem bytesClass_bytes {c : Config} {kind : AccessKind} {x : RegionKind} (hx : x ≠ .device) (a : Word) (n : Nat)
    (h : bytesClass c kind a n = some x) : ∀ k ≤ n, byteClass c kind (a + BitVec.ofNat 32 k).toNat = some x := by
  induction n generalizing a with
  | zero =>
    intro k hk
    obtain rfl : k = 0 := by omega
    simpa [bytesClass] using h
  | succ n ih =>
    intro k hk
    simp only [bytesClass] at h
    split at h
    · rename_i y z hy hz
      split at h
      · cases h
        subst z
        cases k with
        | zero => simpa using hy
        | succ k =>
          rw [show a + BitVec.ofNat 32 (k + 1) = a + 1 + BitVec.ofNat 32 k by bv_omega]
          exact ih (a + 1) hz k (by omega)
      · cases h
        exact absurd rfl hx
    · cases h

/-- With no plain byte an access stores nothing. -/
theorem storePlainBytes_none (c : Config) (m : Memory) (a v : Word) (n : Nat)
    (h : ∀ k < n, byteClass c .write (a + BitVec.ofNat 32 k).toNat ≠ some .plain) :
    storePlainBytes c m a n v = m := by
  induction n generalizing a v with
  | zero => rfl
  | succ n ih =>
    have h0 := h 0 (by omega)
    simp only [BitVec.add_zero] at h0
    simp only [storePlainBytes, if_neg h0]
    exact ih _ _ (fun k hk => by rw [add_one_add_ofNat]; exact h (k + 1) (by omega))

/-- The bytes of a read whose plain bytes are memory's. -/
theorem loadPlainBytes_byte (c : Config) (kind : AccessKind) (m : Memory) (a v : Word) (n k : Nat) (hn : n ≤ 4)
    (hk : k < n) :
    (loadPlainBytes c kind m a n v).extractLsb' (8 * k) 8 =
      if byteClass c kind (a + BitVec.ofNat 32 k).toNat = some .plain then m.read (a + BitVec.ofNat 32 k).toNat
      else v.extractLsb' (8 * k) 8 := by
  induction n generalizing a v k with
  | zero => omega
  | succ n ih =>
    simp only [loadPlainBytes]
    cases k with
    | zero =>
      simp only [BitVec.add_zero]
      apply BitVec.eq_of_getLsbD_eq
      intro i hi
      have hi2 : i < 32 := by omega
      split <;> simp [hi, hi2]
    | succ k =>
      have h := ih (a + 1) (v >>> 8) k (by omega) (by omega)
      rw [add_one_add_ofNat] at h
      have e : v.extractLsb' (8 * (k + 1)) 8 = (v >>> 8).extractLsb' (8 * k) 8 := by
        apply BitVec.eq_of_getLsbD_eq
        intro i hi
        simp only [BitVec.getLsbD_extractLsb', hi, decide_true, Bool.true_and, BitVec.getLsbD_ushiftRight]
        congr 1
        omega
      rw [e, ← h]
      apply BitVec.eq_of_getLsbD_eq
      intro i hi
      have h1 : ¬ 8 * (k + 1) + i < 8 := by omega
      have h2 : 8 * (k + 1) + i < 32 := by omega
      have h3 : 8 * (k + 1) + i - 8 = 8 * k + i := by omega
      simp only [BitVec.getLsbD_extractLsb', hi, decide_true, Bool.true_and, BitVec.getLsbD_or, BitVec.getLsbD_setWidth,
        BitVec.getLsbD_shiftLeft, h1, h2, h3, decide_false, Bool.not_false]
      rw [BitVec.getLsbD_of_ge _ (8 * (k + 1) + i) (by omega)]
      simp

/-- A read moves no bit above its bytes. -/
theorem loadPlainBytes_lt (c : Config) (kind : AccessKind) (m : Memory) (a v : Word) (n : Nat) :
    ∀ i, 8 * n ≤ i → (loadPlainBytes c kind m a n v).getLsbD i = false := by
  induction n generalizing a v with
  | zero => intro i _; simp [loadPlainBytes]
  | succ n ih =>
    intro i hi
    simp only [loadPlainBytes, BitVec.getLsbD_or, BitVec.getLsbD_setWidth, BitVec.getLsbD_shiftLeft]
    rw [ih _ _ (i - 8) (by omega), BitVec.getLsbD_of_ge _ i (by omega)]
    simp

/-! ### Marks -/

@[simp] theorem mem_markByte (a b : Nat) (l : List Nat) : b ∈ markByte a l ↔ b = a ∨ b ∈ l := by
  induction l with
  | nil => simp [markByte]
  | cons x xs ih =>
    unfold markByte
    split
    · simp
    · split
      · next h => subst h; simp
      · simp only [List.mem_cons, ih]; tauto

theorem mem_markBytes (a : Word) (n b : Nat) (l : List Nat) :
    b ∈ markBytes a n l ↔ b ∈ l ∨ ∃ k < n, b = (a + BitVec.ofNat 32 k).toNat := by
  induction n generalizing a l with
  | zero => simp [markBytes]
  | succ n ih =>
    simp only [markBytes, ih, mem_markByte]
    constructor
    · rintro ((h | h) | ⟨k, hk, h⟩)
      · exact Or.inr ⟨0, by omega, by simpa using h⟩
      · exact Or.inl h
      · exact Or.inr ⟨k + 1, by omega, by rw [← add_one_add_ofNat]; exact h⟩
    · rintro (h | ⟨k, hk, h⟩)
      · exact Or.inl (Or.inr h)
      · cases k with
        | zero => exact Or.inl (Or.inl (by simpa using h))
        | succ k => exact Or.inr ⟨k, by omega, by rw [add_one_add_ofNat]; exact h⟩

end Sys2Proof.Machine
end

