-- ==== Sys2Proof/Laws/Ops.lean ====
section
/-! SUPPORT. One lemma for each shared operation, that says what it can do. -/

namespace Sys2Proof.Machine

/-! ### What accesses leave alone -/

/-- What reads leave alone: all but a device's and the system control space's own state and the free values used. -/
def ReadKeeps (s t : State) : Prop :=
  t = { s with scs := t.scs, deviceLog := t.deviceLog, freeIdx := t.freeIdx }

/-- What accesses leave alone; memory keeps its canonical form. -/
def AccessKeeps (s t : State) : Prop :=
  t = { s with
    scs := t.scs, eventReg := t.eventReg, deviceLog := t.deviceLog, freeIdx := t.freeIdx, mem := t.mem,
    dirty := t.dirty } ∧
  (s.mem.wf = true → t.mem.wf = true)

theorem ReadKeeps.refl (s : State) : ReadKeeps s s := rfl

theorem AccessKeeps.refl (s : State) : AccessKeeps s s := ⟨rfl, id⟩

theorem ReadKeeps.trans {s t u : State} (h : ReadKeeps s t) (k : ReadKeeps t u) : ReadKeeps s u := by
  unfold ReadKeeps at *
  rw [k, h]

theorem AccessKeeps.trans {s t u : State} (h : AccessKeeps s t) (k : AccessKeeps t u) : AccessKeeps s u := by
  refine ⟨?_, k.2 ∘ h.2⟩
  have h1 := h.1
  have k1 := k.1
  rw [k1, h1]

theorem ReadKeeps.access {s t : State} (h : ReadKeeps s t) : AccessKeeps s t := by
  unfold ReadKeeps at h
  constructor
  · rw [h]
  · rw [h]; exact id

/-- What MemMap says depends on the parameters only. -/
theorem State.accessClass_cfg {s t : State} (h : t.cfg = s.cfg) (k : AccessKind) (a : Word) (z : Size) :
    t.accessClass k a z = s.accessClass k a z := by
  simp only [State.accessClass, h]

/-! ### Single accesses -/

/-- A read of a register of the system control space. -/
theorem State.readSystem_keeps {s t : State} {a v : Word} (h : s.readSystem a = some (v, t)) : ReadKeeps s t := by
  unfold State.readSystem at h
  split at h <;> (try split at h) <;>
    first
      | (obtain ⟨-, rfl⟩ := Prod.mk.inj (Option.some.inj h); rfl)
      | cases h

/-- A write of a register of the system control space changes that space, and may be an event. -/
theorem State.writeSystem_eq {s t : State} {a v : Word} (h : s.writeSystem a v = some t) :
    ∃ c e, t = { s with scs := c, eventReg := e } := by
  unfold State.writeSystem at h
  split at h <;> (try split at h) <;>
    first
      | (obtain rfl := Option.some.inj h; exact ⟨_, _, rfl⟩)
      | cases h

/-- A write to a register of the system control space. -/
theorem State.writeSystem_keeps {s t : State} {a v : Word} (h : s.writeSystem a v = some t) : AccessKeeps s t := by
  obtain ⟨c, e, rfl⟩ := State.writeSystem_eq h
  exact ⟨rfl, id⟩

/-- A write that a device sees. -/
theorem State.writeDevice_keeps (s : State) (a : Word) (z : Size) (v : Word) : AccessKeeps s (s.writeDevice a z v) :=
  ⟨rfl, fun h => Memory.wf_storePlainBytes _ h _ _ _⟩

/-- What a read can do: trap at a misaligned address or outside the map, or answer a value. -/
theorem memRead_cases (k : AccessKind) (a : Word) (z : Size) (s : State) :
    (aligned a z = false ∧ memRead k a z s = .trap (.unalignedAccess a) s) ∨
    (aligned a z = true ∧ s.accessClass k a z = none ∧ memRead k a z s = .trap (.busFault a k) s) ∨
    (aligned a z = true ∧ (s.accessClass k a z).isSome = true ∧ ∃ v t, memRead k a z s = .ok v t ∧ ReadKeeps s t) := by
  unfold memRead
  cases hal : aligned a z with
  | false => exact .inl ⟨rfl, by simp⟩
  | true =>
    right
    rw [if_pos rfl]
    cases hc : s.accessClass k a z with
    | none => exact .inl ⟨rfl, rfl, rfl⟩
    | some x =>
      refine .inr ⟨rfl, rfl, ?_⟩
      cases x with
      | plain => exact ⟨_, _, rfl, rfl⟩
      | device => exact ⟨_, _, rfl, rfl⟩
      | system =>
        simp only
        split
        · next v t h =>
          refine ⟨v, t, rfl, ?_⟩
          split at h
          · exact State.readSystem_keeps h
          · cases h
        · exact ⟨_, _, rfl, rfl⟩

/-- What a write can do. -/
theorem memWrite_cases (a : Word) (z : Size) (v : Word) (s : State) :
    (aligned a z = false ∧ memWrite a z v s = .trap (.unalignedAccess a) s) ∨
    (aligned a z = true ∧ s.accessClass .write a z = none ∧ memWrite a z v s = .trap (.busFault a .write) s) ∨
    (aligned a z = true ∧ (s.accessClass .write a z).isSome = true ∧
      ∃ t, memWrite a z v s = .ok () t ∧ AccessKeeps s t) := by
  unfold memWrite
  cases hal : aligned a z with
  | false => exact .inl ⟨rfl, by simp⟩
  | true =>
    right
    rw [if_pos rfl]
    cases hc : s.accessClass .write a z with
    | none => exact .inl ⟨rfl, rfl, rfl⟩
    | some x =>
      refine .inr ⟨rfl, rfl, ?_⟩
      cases x with
      | plain => exact ⟨_, rfl, rfl, fun h => Memory.wf_store h _ _ _⟩
      | device => exact ⟨_, rfl, State.writeDevice_keeps _ _ _ _⟩
      | system =>
        simp only
        split
        · next t h =>
          refine ⟨_, rfl, ?_⟩
          split at h
          · exact (State.writeSystem_keeps h).trans ⟨rfl, id⟩
          · cases h
        · exact ⟨_, rfl, State.writeDevice_keeps _ _ _ _⟩

/-- A read of plain memory changes nothing. -/
theorem memRead_plain {k : AccessKind} {a : Word} {z : Size} {s : State} (ha : aligned a z = true)
    (hc : s.accessClass k a z = some .plain) : memRead k a z s = .ok (s.mem.load a z.bytes) s := by
  simp [memRead, ha, hc]

/-- A write to plain memory. -/
theorem memWrite_plain {a : Word} {z : Size} {s : State} (v : Word) (ha : aligned a z = true)
    (hc : s.accessClass .write a z = some .plain) : memWrite a z v s = .ok () (s.storePlain a z v) := by
  simp [memWrite, ha, hc]

/-! ### Several words -/

/-- What several reads can do. -/
theorem readWords_cases (a : Word) (n : Nat) (s : State) :
    (∃ vs t, readWords a n s = .ok vs t ∧ ReadKeeps s t ∧ vs.length = n) ∨
    (∃ x t, readWords a n s = .trap x t ∧ ReadKeeps s t ∧ ∀ u, x ≠ .svCall u) := by
  induction n generalizing a s with
  | zero => exact .inl ⟨_, _, rfl, rfl, rfl⟩
  | succ n ih =>
    simp only [readWords]
    rcases memRead_cases .read a .word s with ⟨-, h⟩ | ⟨-, -, h⟩ | ⟨-, -, v, t, h, hk⟩
    · exact .inr ⟨_, _, by rw [h], .refl _, by simp⟩
    · exact .inr ⟨_, _, by rw [h], .refl _, by simp⟩
    · rcases ih (a + 4) t with ⟨vs, u, h2, hk2, hl⟩ | ⟨x, u, h2, hk2, hx⟩
      · exact .inl ⟨v :: vs, u, by simp only [h, h2], hk.trans hk2, by simp [hl]⟩
      · exact .inr ⟨x, u, by simp only [h, h2], hk.trans hk2, hx⟩

/-- What several writes can do. -/
theorem writeSlots_cases (l : List (Word × Word)) (s : State) :
    (∃ t, writeSlots l s = .ok () t ∧ AccessKeeps s t) ∨
    (∃ x t, writeSlots l s = .trap x t ∧ AccessKeeps s t ∧ ∀ u, x ≠ .svCall u) := by
  induction l generalizing s with
  | nil => exact .inl ⟨_, rfl, .refl _⟩
  | cons e l ih =>
    obtain ⟨a, v⟩ := e
    simp only [writeSlots]
    rcases memWrite_cases a .word v s with ⟨-, h⟩ | ⟨-, -, h⟩ | ⟨-, -, t, h, hk⟩
    · exact .inr ⟨_, _, by rw [h], .refl _, by simp⟩
    · exact .inr ⟨_, _, by rw [h], .refl _, by simp⟩
    · rcases ih t with ⟨u, h2, hk2⟩ | ⟨x, u, h2, hk2, hx⟩
      · exact .inl ⟨u, by simp only [h, h2], hk.trans hk2⟩
      · exact .inr ⟨x, u, by simp only [h, h2], hk.trans hk2, hx⟩

/-- Words stored one after another are slots stored in their order. -/
theorem writeWords_eq_writeSlots (a : Word) (vs : List Word) (s : State) :
    writeWords a vs s = writeSlots (slotsFrom a vs) s := by
  induction vs generalizing a s with
  | nil => rfl
  | cons v vs ih =>
    simp only [writeWords, slotsFrom, writeSlots]
    cases memWrite a .word v s with
    | ok x t => exact ih _ _
    | trap x t => rfl

theorem writeWords_cases (a : Word) (vs : List Word) (s : State) :
    (∃ t, writeWords a vs s = .ok () t ∧ AccessKeeps s t) ∨
    (∃ x t, writeWords a vs s = .trap x t ∧ AccessKeeps s t ∧ ∀ u, x ≠ .svCall u) := by
  rw [writeWords_eq_writeSlots]
  exact writeSlots_cases _ _

/-! ### Words in plain memory -/

theorem Memory.load_congr {m n : Memory} {a : Word} {k : Nat}
    (h : ∀ j < k, m.read (a + BitVec.ofNat 32 j).toNat = n.read (a + BitVec.ofNat 32 j).toNat) :
    m.load a k = n.load a k := by
  induction k generalizing a with
  | zero => rfl
  | succ k ih =>
    simp only [Memory.load]
    rw [ih (a := a + 1) (fun j hj => by rw [add_one_add_ofNat]; exact h (j + 1) (by omega))]
    have h0 := h 0 (by omega)
    simp only [BitVec.add_zero] at h0
    rw [h0]

/-- One byte below a value, as a disjunction and as an append. -/
theorem or_shift_byte {w : Nat} (hw : w + 8 ≤ 32) (x : BitVec w) (b : BitVec 8) :
    b.setWidth 32 ||| (x.setWidth 32 <<< 8) = (x ++ b).setWidth 32 := by
  apply BitVec.eq_of_toNat_eq
  have hx := x.isLt
  have hb := b.isLt
  have hp : 2 ^ w ≤ 2 ^ 24 := Nat.pow_le_pow_right (by omega) (by omega)
  have hp2 : 2 ^ (w + 8) ≤ 2 ^ 32 := Nat.pow_le_pow_right (by omega) (by omega)
  have hxb := (x ++ b).isLt
  rw [BitVec.toNat_or, BitVec.toNat_setWidth, BitVec.toNat_shiftLeft, BitVec.toNat_setWidth, BitVec.toNat_setWidth,
    Nat.mod_eq_of_lt (a := (x ++ b).toNat) (by omega), BitVec.toNat_append,
    Nat.mod_eq_of_lt (a := b.toNat) (by omega), Nat.mod_eq_of_lt (a := x.toNat) (by omega), Nat.or_comm,
    Nat.mod_eq_of_lt]
  rw [Nat.shiftLeft_eq]
  omega

/-- A word is its four bytes. -/
theorem word_bytes (v : Word) :
    v.extractLsb' 24 8 ++ v.extractLsb' 16 8 ++ v.extractLsb' 8 8 ++ v.extractLsb' 0 8 = v := by
  apply BitVec.eq_of_getLsbD_eq
  intro i hi
  simp only [BitVec.getLsbD_append, BitVec.getLsbD_extractLsb']
  split
  · simp [*]
  · split
    · simp [*, show 8 + (i - 8) = i by omega, show i - 8 < 8 by omega]
    · split
      · simp [*, show 16 + (i - 8 - 8) = i by omega, show i - 8 -8 < 8 by omega]
      · simp [*, show 24 + (i - 8 - 8 - 8) = i by omega, show i - 8 -8-8 < 8 by omega]

/-- A word loaded is its four bytes, the byte at the lowest address least significant (R54). -/
theorem Memory.load_four (m : Memory) (a : Word) :
    m.load a 4 = m.read (a + 3).toNat ++ m.read (a + 2).toNat ++ m.read (a + 1).toNat ++ m.read a.toNat := by
  have z : (0 : Word) <<< 8 = 0#32 := by decide
  have e2 : a + 1 + 1 = a + 2 := by rw [BitVec.add_assoc]; rfl
  have e3 : a + 2 + 1 = a + 3 := by rw [BitVec.add_assoc]; rfl
  simp only [Memory.load]
  rw [z, BitVec.or_zero, e2, e3, or_shift_byte (by omega), or_shift_byte (by omega), or_shift_byte (by omega)]
  exact BitVec.setWidth_eq _

/-- A halfword loaded (R54). -/
theorem Memory.load_two (m : Memory) (a : Word) :
    m.load a 2 = BitVec.setWidth 32 (m.read (a + 1).toNat ++ m.read a.toNat) := by
  have z : (0 : Word) <<< 8 = 0#32 := by decide
  simp only [Memory.load]
  rw [z, BitVec.or_zero, or_shift_byte (by omega)]

/-- A byte loaded (R54). -/
theorem Memory.load_one (m : Memory) (a : Word) : m.load a 1 = (m.read a.toNat).setWidth 32 := by
  simp [Memory.load]

/-- A stored word reads back. -/
theorem Memory.load_store_same (m : Memory) (a v : Word) : (m.store a 4 v).load a 4 = v := by
  have hb : ∀ k < 4, (m.store a 4 v).read (a + BitVec.ofNat 32 k).toNat = v.extractLsb' (8 * k) 8 := fun k hk =>
    Memory.read_store_same m a v 4 k (by omega) hk
  have h0 := hb 0 (by omega)
  have h1 := hb 1 (by omega)
  have h2 := hb 2 (by omega)
  have h3 := hb 3 (by omega)
  simp only [BitVec.add_zero] at h0
  rw [Memory.load_four]
  exact (congr (congrArg _ (congr (congrArg _ (congr (congrArg _ h3) h2)) h1)) h0).trans (word_bytes v)

theorem add_wordUp (a : Word) (i j : Nat) :
    a + BitVec.ofNat 32 i + BitVec.ofNat 32 j = a + BitVec.ofNat 32 (i + j) := by
  rw [BitVec.add_assoc, BitVec.ofNat_add]

theorem add_four_wordUp (a : Word) (k : Nat) : a + 4 + BitVec.ofNat 32 k = a + BitVec.ofNat 32 (k + 4) := by
  rw [show (4 : Word) = BitVec.ofNat 32 4 from rfl, add_wordUp, Nat.add_comm]

theorem aligned_add_four {a : Word} (h : aligned a .word = true) : aligned (a + 4) .word = true := by
  simp [aligned, Size.bytes] at *
  omega

/-- Words stored to plain memory: only memory and the marks change; each word stands at its address, and every other
byte reads as before. -/
theorem writeWords_plain (a : Word) (vs : List Word) (s : State) (hn : 4 * vs.length ≤ 2 ^ 32)
    (ha : aligned a .word = true ∨ vs = [])
    (hc : ∀ k < vs.length, s.accessClass .write (a + BitVec.ofNat 32 (4 * k)) .word = some .plain) :
    ∃ m d, writeWords a vs s = .ok () { s with mem := m, dirty := d } ∧
      (∀ k (h : k < vs.length), m.load (a + BitVec.ofNat 32 (4 * k)) 4 = vs[k]) ∧
      (∀ b : Nat, (∀ j < 4 * vs.length, b ≠ (a + BitVec.ofNat 32 j).toNat) → m.read b = s.mem.read b) ∧
      (∀ b : Nat, b ∈ d ↔ b ∈ s.dirty ∨ ∃ j < 4 * vs.length, b = (a + BitVec.ofNat 32 j).toNat) ∧
      (s.mem.wf = true → m.wf = true) := by
  induction vs generalizing a s with
  | nil => exact ⟨s.mem, s.dirty, rfl, by simp, by simp, by simp, id⟩
  | cons v vs ih =>
    have ha : aligned a .word = true := by rcases ha with h | h; exact h; cases h
    have h0 := hc 0 (by simp)
    simp only [Nat.mul_zero, BitVec.add_zero] at h0
    simp only [List.length_cons] at hn
    obtain ⟨m, d, h1, h2, h3, h4, h5⟩ := ih (a + 4) (s.storePlain a .word v) (by omega) (.inl (aligned_add_four ha))
      (fun k hk => by
        rw [add_four_wordUp, State.accessClass_cfg (State.storePlain_cfg _ _ _ _)]
        have := hc (k + 1) (by simp; omega)
        rwa [show 4 * (k + 1) = 4 * k + 4 by omega] at this)
    refine ⟨m, d, ?_, ?_, ?_, ?_, ?_⟩
    · simp only [writeWords, memWrite_plain v ha h0, h1]
      rfl
    · intro k hk
      cases k with
      | zero =>
        simp only [Nat.mul_zero, BitVec.add_zero, List.getElem_cons_zero]
        rw [← Memory.load_store_same s.mem a v]
        apply Memory.load_congr
        intro j hj
        rw [h3]
        · rfl
        · intro i hi hcon
          rw [add_four_wordUp] at hcon
          have := toNat_add_ofNat_inj (by omega) (by omega) hcon
          omega
      | succ k =>
        simp only [List.length_cons] at hk
        have := h2 k (by omega)
        rw [add_four_wordUp] at this
        rw [show 4 * (k + 1) = 4 * k + 4 by omega, this, List.getElem_cons_succ]
    · intro b hb
      simp only [List.length_cons] at hb
      rw [h3]
      · exact Memory.read_store_other _ _ _ _ _ (fun j hj => hb j (by simp [Size.bytes] at hj; omega))
      · intro j hj
        rw [add_four_wordUp]
        exact hb _ (by omega)
    · intro b
      rw [h4]
      simp only [State.storePlain_dirty, mem_markBytes, List.length_cons]
      constructor
      · rintro ((h | ⟨j, hj, h⟩) | ⟨j, hj, h⟩)
        · exact .inl h
        · exact .inr ⟨j, by simp [Size.bytes] at hj; omega, h⟩
        · exact .inr ⟨j + 4, by omega, by rw [h, add_four_wordUp]⟩
      · rintro (h | ⟨j, hj, h⟩)
        · exact .inl (.inl h)
        · by_cases hj4 : j < 4
          · exact .inl (.inr ⟨j, hj4, h⟩)
          · exact .inr ⟨j - 4, by omega, by rw [h, add_four_wordUp]; congr 3; omega⟩
    · exact fun h => h5 (Memory.wf_store h _ _ _)

/-- Words read from plain memory: nothing changes. -/
theorem readWords_plain (a : Word) (n : Nat) (s : State) (ha : aligned a .word = true ∨ n = 0)
    (hc : ∀ k < n, s.accessClass .read (a + BitVec.ofNat 32 (4 * k)) .word = some .plain) :
    readWords a n s = .ok ((List.range n).map fun k => s.mem.load (a + BitVec.ofNat 32 (4 * k)) 4) s := by
  induction n generalizing a with
  | zero => rfl
  | succ n ih =>
    have ha : aligned a .word = true := by rcases ha with h | h; exact h; cases h
    have h0 := hc 0 (by omega)
    simp only [Nat.mul_zero, BitVec.add_zero] at h0
    have h1 := ih (a + 4) (.inl (aligned_add_four ha)) (fun k hk => by
      rw [add_four_wordUp]
      have := hc (k + 1) (by omega)
      rwa [show 4 * (k + 1) = 4 * k + 4 by omega] at this)
    simp only [readWords, memRead_plain ha h0, h1, List.range_succ_eq_map, List.map_cons, List.map_map]
    congr 2
    · simp
      rfl
    · apply List.map_congr_left
      intro k _
      simp only [Function.comp_apply, Nat.succ_eq_add_one, add_four_wordUp]
      rw [show 4 * (k + 1) = 4 * k + 4 by omega]

/-! ### Transfers that are stopped -/

/-- Words read up to one that MemMap does not admit: the trap of that word, and nothing changes. -/
theorem readWords_blocked (a : Word) (n k : Nat) (s : State) (ha : aligned a .word = true) (hk : k < n)
    (hc : ∀ j < k, s.accessClass .read (a + BitVec.ofNat 32 (4 * j)) .word = some .plain)
    (hb : s.accessClass .read (a + BitVec.ofNat 32 (4 * k)) .word = none) :
    readWords a n s = .trap (.busFault (a + BitVec.ofNat 32 (4 * k)) .read) s := by
  induction n generalizing a k with
  | zero => omega
  | succ n ih =>
    cases k with
    | zero =>
      simp only [Nat.mul_zero, BitVec.add_zero] at hb ⊢
      simp [readWords, memRead, ha, hb]
    | succ k =>
      have h0 := hc 0 (by omega)
      simp only [Nat.mul_zero, BitVec.add_zero] at h0
      have e : ∀ j, a + 4 + BitVec.ofNat 32 (4 * j) = a + BitVec.ofNat 32 (4 * (j + 1)) := fun j => by
        rw [add_four_wordUp, show 4 * (j + 1) = 4 * j + 4 by omega]
      have h := ih (a + 4) k (aligned_add_four ha) (by omega) (fun j hj => by rw [e]; exact hc (j + 1) (by omega))
        (by rw [e]; exact hb)
      rw [e] at h
      simp only [readWords, memRead_plain ha h0, h]

/-- Stores of two lists of slots, one after the other. -/
theorem writeSlots_append (l m : List (Word × Word)) (s : State) :
    writeSlots (l ++ m) s = match writeSlots l s with
      | .ok _ t => writeSlots m t
      | .trap x t => .trap x t := by
  induction l generalizing s with
  | nil => rfl
  | cons e l ih =>
    obtain ⟨a, v⟩ := e
    simp only [List.cons_append, writeSlots]
    cases memWrite a .word v s with
    | ok u t => exact ih t
    | trap x t => rfl

/-- The slots of two lists of words. -/
theorem slotsFrom_append (a : Word) (vs ws : List Word) :
    slotsFrom a (vs ++ ws) = slotsFrom a vs ++ slotsFrom (a + BitVec.ofNat 32 (4 * vs.length)) ws := by
  induction vs generalizing a with
  | nil => simp [slotsFrom]
  | cons v vs ih =>
    simp only [List.cons_append, slotsFrom, ih, add_four_wordUp, List.length_cons]
    rw [show 4 * (vs.length + 1) = 4 * vs.length + 4 by omega]

/-- Words stored up to one that MemMap does not admit: the words before it are stored and no other byte, then the trap
of that word. -/
theorem writeWords_blocked (a : Word) (vs : List Word) (k : Nat) (s : State) (ha : aligned a .word = true)
    (hk : k < vs.length) (hn : 4 * vs.length ≤ 2 ^ 32)
    (hc : ∀ j < k, s.accessClass .write (a + BitVec.ofNat 32 (4 * j)) .word = some .plain)
    (hb : s.accessClass .write (a + BitVec.ofNat 32 (4 * k)) .word = none) :
    ∃ m d, writeWords a (vs.take k) s = .ok () { s with mem := m, dirty := d } ∧
      writeWords a vs s =
        .trap (.busFault (a + BitVec.ofNat 32 (4 * k)) .write) { s with mem := m, dirty := d } ∧
      ∀ b : Nat, (∀ j < 4 * k, b ≠ (a + BitVec.ofNat 32 j).toNat) → m.read b = s.mem.read b := by
  have hl : (vs.take k).length = k := by simp; omega
  obtain ⟨m, d, h, -, ho, -⟩ := writeWords_plain a (vs.take k) s (by omega) (.inl ha) (by rw [hl]; exact hc)
  refine ⟨m, d, h, ?_, by rw [hl] at ho; exact ho⟩
  have hd : vs = vs.take k ++ vs[k] :: vs.drop (k + 1) := by simp
  have hal : aligned (a + BitVec.ofNat 32 (4 * k)) .word = true := by
    simp [aligned, Size.bytes] at *
    omega
  rw [writeWords_eq_writeSlots] at h ⊢
  rw [hd, slotsFrom_append, writeSlots_append, h, hl]
  simp only [slotsFrom, writeSlots, memWrite, hal, if_true]
  have hb' : State.accessClass { s with mem := m, dirty := d } .write (a + BitVec.ofNat 32 (4 * k)) .word = none := hb
  rw [hb']

/-- A write changes no byte outside its own. -/
theorem memWrite_outside {a : Word} {z : Size} {v : Word} {s t : State} (h : memWrite a z v s = .ok () t) (b : Nat)
    (hb : ∀ k < z.bytes, b ≠ (a + BitVec.ofNat 32 k).toNat) : t.mem.read b = s.mem.read b := by
  have hd : (s.writeDevice a z v).mem.read b = s.mem.read b :=
    Memory.read_storePlainBytes_other _ _ _ _ _ _ (fun k hk _ => hb k hk)
  unfold memWrite at h
  split at h
  · split at h
    · cases h
    · cases h
      exact Memory.read_store_other _ _ _ _ _ hb
    · cases h
      exact hd
    · split at h
      · next t' hw =>
        cases h
        split at hw
        · obtain ⟨c, e, rfl⟩ := State.writeSystem_eq hw
          rfl
        · cases hw
      · cases h
        exact hd
  · cases h

/-- Stores to slots change no byte outside the slots. -/
theorem writeSlots_outside (l : List (Word × Word)) (s : State) (b : Nat)
    (hb : ∀ e ∈ l, ∀ k < 4, b ≠ (e.1 + BitVec.ofNat 32 k).toNat) :
    (∀ t, writeSlots l s = .ok () t → t.mem.read b = s.mem.read b) ∧
    (∀ x t, writeSlots l s = .trap x t → t.mem.read b = s.mem.read b) := by
  induction l generalizing s with
  | nil => exact ⟨fun t h => (by cases h; rfl), fun x t h => (by cases h)⟩
  | cons e l ih =>
    obtain ⟨a, v⟩ := e
    simp only [writeSlots]
    rcases memWrite_cases a .word v s with ⟨-, h⟩ | ⟨-, -, h⟩ | ⟨-, -, u, h, -⟩
    · rw [h]
      exact ⟨fun t h => (by cases h), fun x t h => (by cases h; rfl)⟩
    · rw [h]
      exact ⟨fun t h => (by cases h), fun x t h => (by cases h; rfl)⟩
    · have hu := memWrite_outside h b (hb (a, v) (by simp))
      obtain ⟨h1, h2⟩ := ih u (fun e he => hb e (by simp [he]))
      rw [h]
      exact ⟨fun t ht => (h1 t ht).trans hu, fun x t ht => (h2 x t ht).trans hu⟩

/-- A slot that traps: the slots before it are stored, and nothing else. -/
theorem writeSlots_trap {l : List (Word × Word)} {s t : State} {x : Trap} (h : writeSlots l s = .trap x t) :
    ∃ k < l.length, writeSlots (l.take k) s = .ok () t := by
  induction l generalizing s with
  | nil => cases h
  | cons e l ih =>
    obtain ⟨a, v⟩ := e
    simp only [writeSlots] at h
    rcases memWrite_cases a .word v s with ⟨-, hw⟩ | ⟨-, -, hw⟩ | ⟨-, -, u, hw, -⟩
    · rw [hw] at h
      cases h
      exact ⟨0, by simp, rfl⟩
    · rw [hw] at h
      cases h
      exact ⟨0, by simp, rfl⟩
    · rw [hw] at h
      obtain ⟨k, hk, h2⟩ := ih h
      exact ⟨k + 1, by simpa using hk, by simp only [List.take_succ_cons, writeSlots, hw, h2]⟩

/-- Words one of which traps: the words before it are stored, and nothing else. -/
theorem writeWords_trap {a : Word} {vs : List Word} {s t : State} {x : Trap} (h : writeWords a vs s = .trap x t) :
    ∃ k < vs.length, writeWords a (vs.take k) s = .ok () t := by
  rw [writeWords_eq_writeSlots] at h
  obtain ⟨k, hk, h2⟩ := writeSlots_trap h
  have hl : ∀ (a : Word) (vs : List Word) (k : Nat), (slotsFrom a vs).take k = slotsFrom a (vs.take k) := by
    intro a vs
    induction vs generalizing a with
    | nil => intro k; simp [slotsFrom]
    | cons v vs ih =>
      intro k
      cases k with
      | zero => rfl
      | succ k => simp only [slotsFrom, List.take_succ_cons, ih]
  have hlen : ∀ (a : Word) (vs : List Word), (slotsFrom a vs).length = vs.length := by
    intro a vs
    induction vs generalizing a with
    | nil => rfl
    | cons v vs ih => simp [slotsFrom, ih]
  exact ⟨k, by rwa [hlen] at hk, by rw [writeWords_eq_writeSlots, ← hl]; exact h2⟩

/-- Slots whose content becomes unknown change no byte outside them. -/
theorem State.freeSlots_outside (l : List (Word × Word)) (s : State) (b : Nat)
    (hb : ∀ e ∈ l, ∀ k < 4, b ≠ (e.1 + BitVec.ofNat 32 k).toNat) : (s.freeSlots l).mem.read b = s.mem.read b := by
  induction l generalizing s with
  | nil => rfl
  | cons e l ih =>
    obtain ⟨a, v⟩ := e
    simp only [State.freeSlots]
    rw [ih _ (fun e he => hb e (by simp [he]))]
    exact Memory.read_storePlainBytes_other _ _ _ _ _ _ (fun k hk _ => hb (a, v) (by simp) k hk)

/-- Slots whose content becomes unknown: only memory, the marks and the number of free values change. -/
theorem State.freeSlots_eq (l : List (Word × Word)) (s : State) :
    ∃ m d k, s.freeSlots l = { s with mem := m, dirty := d, freeIdx := k } := by
  induction l generalizing s with
  | nil => exact ⟨_, _, _, rfl⟩
  | cons e l ih =>
    obtain ⟨a, v⟩ := e
    obtain ⟨m, d, k, h⟩ :=
      ih { s.storeShared a .word (Config.freeWord s.freeIdx) with freeIdx := s.freeIdx + 1 }
    exact ⟨m, d, k, h⟩

/-- Stores to aligned slots that are plain memory or not admitted, one of them not: the trap of one that is not. -/
theorem writeSlots_blocked (l : List (Word × Word)) (s : State) (ha : ∀ e ∈ l, aligned e.1 .word = true)
    (hc : ∀ e ∈ l, s.accessClass .write e.1 .word = some .plain ∨ s.accessClass .write e.1 .word = none)
    (hb : ∃ e ∈ l, s.accessClass .write e.1 .word = none) :
    ∃ e ∈ l, ∃ m d, s.accessClass .write e.1 .word = none ∧
      writeSlots l s = .trap (.busFault e.1 .write) { s with mem := m, dirty := d } := by
  induction l generalizing s with
  | nil => obtain ⟨e, he, -⟩ := hb; cases he
  | cons e l ih =>
    obtain ⟨a, v⟩ := e
    rcases hc (a, v) (by simp) with h | h
    · obtain ⟨e', he', hn⟩ := hb
      have he' : e' ∈ l := by
        rcases List.mem_cons.1 he' with rfl | he'
        · rw [h] at hn; cases hn
        · exact he'
      obtain ⟨e2, h2, m, d, h3, h4⟩ := ih (s.storePlain a .word v) (fun e he => ha e (by simp [he]))
        (fun e he => hc e (by simp [he])) ⟨e', he', hn⟩
      exact ⟨e2, by simp [h2], m, d, h3, by simp only [writeSlots, memWrite_plain v (ha (a, v) (by simp)) h, h4]; rfl⟩
    · have hal := ha (a, v) (by simp)
      exact ⟨(a, v), by simp, s.mem, s.dirty, h, by simp [writeSlots, memWrite, hal, h]⟩

/-! ### Rounded addresses -/

theorem alignWord_toNat (v : Word) : (alignWord v).toNat = v.toNat / 4 * 4 := by
  have h : alignWord v = (v >>> 2) <<< 2 := by
    apply BitVec.eq_of_getLsbD_eq
    intro i hi
    have hm : ∀ i : Fin 32, (0xFFFFFFFC#32).getLsbD i = decide (2 ≤ i.val) := by decide
    rw [alignWord, BitVec.getLsbD_and, hm ⟨i, hi⟩]
    by_cases h2 : 2 ≤ i
    · simp [h2, hi, show ¬ i < 2 by omega, show 2 + (i - 2) = i by omega]
    · simp [h2, show i < 2 by omega]
  rw [h]
  simp [Nat.shiftRight_eq_div_pow, Nat.shiftLeft_eq]
  omega

theorem clearBit0_toNat (v : Word) : (clearBit0 v).toNat = v.toNat / 2 * 2 := by
  have h : clearBit0 v = (v >>> 1) <<< 1 := by
    apply BitVec.eq_of_getLsbD_eq
    intro i hi
    have hm : ∀ i : Fin 32, (0xFFFFFFFE#32).getLsbD i = decide (1 ≤ i.val) := by decide
    rw [clearBit0, BitVec.getLsbD_and, hm ⟨i, hi⟩]
    by_cases h2 : 1 ≤ i
    · simp [h2, hi, show ¬ i < 1 by omega, show 1 + (i - 1) = i by omega]
    · simp [h2, show i < 1 by omega]
  rw [h]
  simp [Nat.shiftRight_eq_div_pow, Nat.shiftLeft_eq]
  omega

theorem clearBit0_eq_iff (v : Word) : clearBit0 v = v ↔ v.toNat % 2 = 0 := by
  rw [BitVec.toNat_eq, clearBit0_toNat]
  omega

theorem alignWord_eq_iff (v : Word) : alignWord v = v ↔ v.toNat % 4 = 0 := by
  rw [BitVec.toNat_eq, alignWord_toNat]
  omega

@[simp] theorem clearBit0_clearBit0 (v : Word) : clearBit0 (clearBit0 v) = clearBit0 v := by
  rw [clearBit0_eq_iff, clearBit0_toNat]
  omega

@[simp] theorem alignWord_alignWord (v : Word) : alignWord (alignWord v) = alignWord v := by
  rw [alignWord_eq_iff, alignWord_toNat]
  omega

/-- Clearing bit 2 keeps a word-aligned address word-aligned. -/
theorem clearBit2_aligned {v : Word} (h : alignWord v = v) : alignWord (v &&& 0xFFFFFFFB#32) = v &&& 0xFFFFFFFB#32 := by
  unfold alignWord at *
  rw [BitVec.and_assoc, BitVec.and_comm 0xFFFFFFFB#32, ← BitVec.and_assoc, h]

theorem alignWord_or_four {v : Word} (b : Bool) (h : alignWord v = v) :
    alignWord (v ||| bitAt b 2) = v ||| bitAt b 2 := by
  unfold alignWord at *
  rw [BitVec.and_or_distrib_right, h]
  cases b <;> rfl

/-! ### Exceptions -/

/-- What an exception's entry can do: the handler is entered, or an access of the entry traps. -/
theorem exceptionEntry_cases (n : Nat) (ret : Word) (s : State) :
    (∃ t v, exceptionEntry n ret s = .ok () (t.enterHandler s n v) ∧ AccessKeeps s t) ∨
    (∃ x t, exceptionEntry n ret s = .trap x t ∧ AccessKeeps s t) := by
  unfold exceptionEntry
  rcases writeWords_cases s.frameAddr (s.frameWords ret) s with ⟨t, h, hk⟩ | ⟨x, t, h, hk, -⟩
  · rw [h]
    rcases memRead_cases .read (BitVec.ofNat 32 (4 * n)) .word t with ⟨-, h2⟩ | ⟨-, -, h2⟩ | ⟨-, -, v, u, h2, hk2⟩
    · exact .inr ⟨_, _, by simp only [h2]; rfl, hk⟩
    · exact .inr ⟨_, _, by simp only [h2]; rfl, hk⟩
    · exact .inl ⟨u, v, by simp only [h2], hk.trans hk2.access⟩
  · exact .inr ⟨x, t, by rw [h], hk⟩

/-- The words of an entry's frame that are plain memory are stored, and no other byte; the entry traps at the first word
of the frame that MemMap does not admit, or at the vector. -/
theorem exceptionEntry_blocked (n : Nat) (ret : Word) (s : State) (ha : aligned s.frameAddr .word = true)
    (h : (∃ k < 8, (∀ j < k, s.accessClass .write (s.frameAddr + BitVec.ofNat 32 (4 * j)) .word = some .plain) ∧
        s.accessClass .write (s.frameAddr + BitVec.ofNat 32 (4 * k)) .word = none) ∨
      ((∀ j < 8, s.accessClass .write (s.frameAddr + BitVec.ofNat 32 (4 * j)) .word = some .plain) ∧
        s.accessClass .read (BitVec.ofNat 32 (4 * n)) .word = none)) :
    ∃ x m d, exceptionEntry n ret s = .trap x { s with mem := m, dirty := d } ∧
      ∀ b : Nat, (∀ j < 32, b ≠ (s.frameAddr + BitVec.ofNat 32 j).toNat) → m.read b = s.mem.read b := by
  unfold exceptionEntry
  rcases h with ⟨k, hk, hp, hb⟩ | ⟨hp, hb⟩
  · obtain ⟨m, d, -, h, ho⟩ := writeWords_blocked s.frameAddr (s.frameWords ret) k s ha hk
      (by simp [State.frameWords]) hp hb
    exact ⟨_, m, d, by rw [h], fun b hj => ho b fun j h => hj j (by omega)⟩
  · obtain ⟨m, d, h, -, ho, -⟩ := writeWords_plain s.frameAddr (s.frameWords ret) s (by simp [State.frameWords])
      (.inl ha) hp
    have hv : ∃ x, memRead .read (BitVec.ofNat 32 (4 * n)) .word { s with mem := m, dirty := d } =
        .trap x { s with mem := m, dirty := d } := by
      have hc : State.accessClass { s with mem := m, dirty := d } .read (BitVec.ofNat 32 (4 * n)) .word = none := hb
      unfold memRead
      split
      · exact ⟨_, by rw [hc]⟩
      · exact ⟨_, rfl⟩
    obtain ⟨x, hx⟩ := hv
    exact ⟨x, m, d, by simp only [h, hx], ho⟩

/-- A state after an exception of a list was taken from `s`: its handler entered, or Lockup. -/
def TakenFrom (ns : List Nat) (s r : State) : Prop :=
  (∃ s0 t n v, n ∈ ns ∧ r = t.enterHandler s0 n v ∧ AccessKeeps s s0 ∧ AccessKeeps s t) ∨
  (∃ t, r = { t with lockup := true } ∧ AccessKeeps s t)

theorem TakenFrom.after {ns : List Nat} {s t r : State} (h : AccessKeeps s t) (k : TakenFrom ns t r) :
    TakenFrom ns s r := by
  rcases k with ⟨s0, u, n, v, hn, e, h0, h1⟩ | ⟨u, e, h1⟩
  · exact .inl ⟨s0, u, n, v, hn, e, h.trans h0, h.trans h1⟩
  · exact .inr ⟨u, e, h.trans h1⟩

theorem TakenFrom.mono {ns ms : List Nat} {s r : State} (k : TakenFrom ns s r) (h : ns ⊆ ms) : TakenFrom ms s r := by
  rcases k with ⟨s0, u, n, v, hn, k⟩ | k
  · exact .inl ⟨s0, u, n, v, h hn, k⟩
  · exact .inr k

/-- An exception taken enters its handler, or HardFault's, or Lockup. -/
theorem takeException_taken (n : Nat) (ret : Word) (s : State) : TakenFrom [n, 3] s (takeException n ret s) := by
  unfold takeException
  rcases exceptionEntry_cases n ret s with ⟨t, v, h, hk⟩ | ⟨x, t, h, hk⟩
  · rw [h]
    exact .inl ⟨s, t, n, v, by simp, rfl, .refl s, hk⟩
  · rw [h]
    simp only
    split
    · exact .inr ⟨t.entryFailed n, rfl, hk.trans ⟨rfl, id⟩⟩
    · have hk2 : AccessKeeps s (t.entryFailed n) := hk.trans ⟨rfl, id⟩
      rcases exceptionEntry_cases 3 ret (t.entryFailed n) with ⟨u, v, h2, hk3⟩ | ⟨y, u, h2, hk3⟩
      · rw [h2]
        exact .inl ⟨_, u, 3, v, by simp, rfl, hk2, hk2.trans hk3⟩
      · rw [h2]
        exact .inr ⟨u, rfl, hk2.trans hk3⟩

theorem hardFault_taken (ret : Word) (s : State) : TakenFrom [3] s (hardFault ret s) := by
  unfold hardFault
  split
  · exact .inr ⟨s, rfl, .refl s⟩
  · exact (takeException_taken _ _ _).mono (by simp)

theorem takeTrap_taken (x : Trap) (s : State) : TakenFrom [3, 11] s (takeTrap x s) := by
  unfold takeTrap
  split
  · split
    · exact (takeException_taken _ _ _).mono (by simp)
    · exact (hardFault_taken _ _).mono (by simp)
  · exact (hardFault_taken _ _).mono (by simp)
  · exact (hardFault_taken _ _).mono (by simp)

/-- What raising a trap can do. -/
theorem raise_cases (x : Trap) (s : State) :
    (s.cfg.trapModel = .terminal ∧ raise x s = .fault (x.toFault s)) ∨
    (s.cfg.trapModel = .armv6m ∧ ∃ t, raise x s = .next t ∧ TakenFrom [3, 11] s t) := by
  unfold raise
  cases h : s.cfg.trapModel with
  | terminal => exact .inl ⟨rfl, rfl⟩
  | armv6m => exact .inr ⟨rfl, _, rfl, takeTrap_taken x s⟩

/-- What an exception return can do: leave the handler, or become an exception itself. -/
theorem exceptionReturn_cases (exc : Word) (s : State) :
    (∃ t r0 r1 r2 r3 r12 lr pc psr, legalExcReturn exc = true ∧ psr.getLsbD 24 = true ∧
      exceptionReturn exc s =
        t.leaveHandler exc (if exc = 0xFFFFFFFD#32 then s.psp else s.msp) r0 r1 r2 r3 r12 lr pc psr ∧
      ReadKeeps s t) ∨
    TakenFrom [3] s (exceptionReturn exc s) := by
  unfold exceptionReturn
  split
  · next hl =>
    simp only
    rcases readWords_cases (if exc = 0xFFFFFFFD#32 then s.psp else s.msp) 8 s with
      ⟨vs, t, h, hk, -⟩ | ⟨x, t, h, hk, -⟩
    · rw [h]
      split
      · next he =>
        cases he
        split
        · next hT => exact .inl ⟨_, _, _, _, _, _, _, _, _, hl, hT, rfl, hk⟩
        · exact .inr ((hardFault_taken _ _).after hk.access)
      · next he => cases he; exact .inr ((hardFault_taken _ _).after hk.access)
      · next he => cases he
    · rw [h]
      exact .inr ((hardFault_taken _ _).after hk.access)
  · exact .inr (hardFault_taken _ _)

/-! ### Registers and slots without a value -/

/-- Only the registers and the number of free values change. -/
theorem State.freeRegs_keeps (rs : List (BitVec 3)) (s : State) :
    ∃ r k, s.freeRegs rs = { s with regs := r, freeIdx := k } := by
  induction rs generalizing s with
  | nil => exact ⟨_, _, rfl⟩
  | cons q rs ih =>
    simp only [State.freeRegs]
    obtain ⟨r, k, h⟩ := ih { s.setLo q (Config.freeWord s.freeIdx) with freeIdx := s.freeIdx + 1 }
    exact ⟨r, k, h⟩

/-- Only memory, the marks and the number of free values change. -/
theorem State.freeSlots_keeps (l : List (Word × Word)) (s : State) : AccessKeeps s (s.freeSlots l) := by
  induction l generalizing s with
  | nil => exact .refl s
  | cons e l ih =>
    obtain ⟨a, v⟩ := e
    simp only [State.freeSlots]
    exact AccessKeeps.trans ⟨rfl, fun h => Memory.wf_storePlainBytes _ h _ _ _⟩ (ih _)

/-- Only the registers change. -/
theorem State.setValues_keeps (rs : List (BitVec 3)) (vs : List Word) (s : State) :
    ∃ r, s.setValues rs vs = { s with regs := r } := by
  induction rs generalizing s vs with
  | nil => exact ⟨_, rfl⟩
  | cons q rs ih =>
    cases vs with
    | nil => exact ⟨_, rfl⟩
    | cons v vs =>
      obtain ⟨r, h⟩ := ih vs (s.setLo q v)
      exact ⟨r, h⟩

/-! ### Reset and boundaries -/

/-- What a reset can do: the vector table is read, or Lockup. -/
theorem resetSequence_cases (s : State) :
    (∃ sp entry t, ReadKeeps s.resetRegisters t ∧
      resetSequence s = { t with msp := alignWord sp, pc := clearBit0 entry, epsrT := entry.getLsbD 0 }) ∨
    (∃ t, ReadKeeps s.resetRegisters t ∧ resetSequence s = { t with lockup := true }) := by
  unfold resetSequence
  rcases readWords_cases 0 2 s.resetRegisters with ⟨vs, t, h, hk, -⟩ | ⟨x, t, h, hk, -⟩
  · rw [h]
    split
    · next he => cases he; exact .inl ⟨_, _, _, hk, rfl⟩
    · next he => cases he; exact .inr ⟨_, hk, rfl⟩
    · next he => cases he
  · rw [h]
    exact .inr ⟨t, hk, rfl⟩

/-- What the inputs of a boundary leave alone. -/
def BoundaryKeeps (s t : State) : Prop :=
  t = { s with
    scs := t.scs, eventReg := t.eventReg, env := t.env, wakeUp := t.wakeUp, freeIdx := t.freeIdx }

theorem BoundaryKeeps.trans {s t u : State} (h : BoundaryKeeps s t) (k : BoundaryKeeps t u) : BoundaryKeeps s u := by
  unfold BoundaryKeeps at *
  rw [k, h]

theorem State.receive_keeps (s : State) (e : EnvEvent) : BoundaryKeeps s (s.receive e) := by
  cases e <;> rfl

theorem State.receive_all_keeps (es : List EnvEvent) (s : State) : BoundaryKeeps s (es.foldl State.receive s) := by
  induction es generalizing s with
  | nil => rfl
  | cons e es ih => exact (s.receive_keeps e).trans (ih _)

theorem State.sysTickRun_keeps (s : State) : BoundaryKeeps s s.sysTickRun := by
  unfold State.sysTickRun
  split <;> rfl

theorem State.boundary_keeps (s : State) : BoundaryKeeps s s.boundary := by
  unfold State.boundary
  split
  · exact BoundaryKeeps.trans (t := { s with wakeUp := false }) rfl (State.sysTickRun_keeps _)
  · next es rest _ =>
    exact (BoundaryKeeps.trans (t := { s with env := rest, wakeUp := false }) rfl (State.receive_all_keeps es _)).trans
      (State.sysTickRun_keeps _)

/-! ### Register lists -/

theorem mem_listedRegs (list : BitVec 8) (r : BitVec 3) : r ∈ listedRegs list ↔ list.getLsbD r.toNat = true := by
  have h : r ∈ ([0, 1, 2, 3, 4, 5, 6, 7] : List (BitVec 3)) := by revert r; decide
  simp only [listedRegs, List.mem_filter, h, true_and]

theorem listedRegs_nodup (list : BitVec 8) : (listedRegs list).Nodup := List.Nodup.filter _ (by decide)

/-- After several writes: a listed register holds its value, every other one what it held. -/
theorem State.lo_setValues (rs : List (BitVec 3)) (vs : List Word) (s : State) (hn : rs.Nodup)
    (hl : rs.length ≤ vs.length) (r : BitVec 3) :
    (r ∉ rs → (s.setValues rs vs).lo r = s.lo r) ∧
    ∀ (k : Nat) (v : Word), rs[k]? = some r → vs[k]? = some v → (s.setValues rs vs).lo r = v := by
  induction rs generalizing s vs with
  | nil => simp [State.setValues]
  | cons q rs ih =>
    cases vs with
    | nil => simp at hl
    | cons v vs =>
      rw [List.nodup_cons] at hn
      have h := ih vs (s.setLo q v) hn.2 (by simpa using hl)
      simp only [State.setValues]
      refine ⟨?_, ?_⟩
      · intro hr
        simp only [List.mem_cons, not_or] at hr
        rw [h.1 hr.2, State.lo_setLo, if_neg (fun e => hr.1 e.symm)]
      · intro k w h1 h2
        cases k with
        | zero =>
          simp only [List.getElem?_cons_zero, Option.some.injEq] at h1 h2
          subst h1 h2
          rw [h.1 hn.1, State.lo_setLo, if_pos rfl]
        | succ k => exact h.2 k w (by simpa using h1) (by simpa using h2)

/-- A register that is not listed keeps its value. -/
theorem State.lo_freeRegs (rs : List (BitVec 3)) (s : State) {r : BitVec 3} (h : r ∉ rs) :
    (s.freeRegs rs).lo r = s.lo r := by
  induction rs generalizing s with
  | nil => rfl
  | cons q rs ih =>
    simp only [List.mem_cons, not_or] at h
    simp only [State.freeRegs]
    rw [ih _ h.2]
    exact (State.lo_setLo s q r _).trans (if_neg (fun e => h.1 e.symm))

/-- A free order has the same elements. -/
theorem freeOrder_perm {α : Type} (n idx : Nat) (l : List α) : (freeOrder n idx l).Perm l := by
  induction n generalizing idx l with
  | zero => exact .refl _
  | succ n ih =>
    cases l with
    | nil => exact .refl _
    | cons x xs =>
      have hj : Config.freeChoice idx % (x :: xs).length < (x :: xs).length := Nat.mod_lt _ (by simp)
      simp only [freeOrder]
      rw [List.getD_eq_getElem _ _ hj]
      exact (List.Perm.cons _ (ih _ _)).trans (List.getElem_cons_eraseIdx_perm hj)

/-! ### Instructions' shared ends -/

/-- What a register branch can do. -/
theorem branchTo_cases (v : Word) (s : State) :
    (s.isExceptionReturn v = true ∧ branchTo v s = .next (exceptionReturn v s)) ∨
    (s.isExceptionReturn v = false ∧ v.getLsbD 0 = true ∧ branchTo v s = .next { s with pc := clearBit0 v }) ∨
    (s.isExceptionReturn v = false ∧ v.getLsbD 0 = false ∧ branchTo v s = raise (.invalidState v) s) := by
  unfold branchTo
  cases s.isExceptionReturn v <;> cases v.getLsbD 0 <;> simp

/-- What a wait can do: go on at the next instruction, or hold. -/
theorem State.tryWait_cases (w : Wait) (s : State) :
    s.tryWait w = { s with waiting := none, pc := s.pc + 2 } ∨ s.tryWait w = { s with waiting := some w } := by
  unfold State.tryWait
  split
  · exact .inl rfl
  · exact .inr rfl

/-- What the fault of an instruction that begins with `T` = 0 can do: end the run, or take a HardFault, with Lockup after
it in Thread mode. -/
theorem raiseThumbClear_cases (s : State) :
    raiseThumbClear s = .fault ((Trap.invalidState s.pc).toFault s) ∨
    ∃ t, TakenFrom [3, 11] s t ∧ raiseThumbClear s = .next (if s.mode = .thread then { t with lockup := true } else t) := by
  unfold raiseThumbClear
  rcases raise_cases (.invalidState s.pc) s with ⟨-, h⟩ | ⟨-, t, h, ht⟩
  · exact .inl (by rw [h])
  · exact .inr ⟨t, ht, by rw [h]⟩

/-- What a load can do: trap with nothing changed, or write its register. -/
theorem loadTo_cases (rd : BitVec 3) (z : Size) (e : Word → Word) (a : Word) (s : State) :
    (∃ x, loadTo rd z e a s = raise x s) ∨
    (∃ v t, ReadKeeps s t ∧ loadTo rd z e a s = .next ((t.setLo rd (e v)).advance 2)) := by
  unfold loadTo Access.andThen
  rcases memRead_cases .read a z s with ⟨-, h⟩ | ⟨-, -, h⟩ | ⟨-, -, v, t, h, hk⟩
  · exact .inl ⟨_, by rw [h]⟩
  · exact .inl ⟨_, by rw [h]⟩
  · exact .inr ⟨v, t, hk, by rw [h]⟩

/-- What a store can do: trap with nothing changed, or store. -/
theorem storeFrom_cases (rd : BitVec 3) (z : Size) (a : Word) (s : State) :
    (∃ x, storeFrom rd z a s = raise x s) ∨
    (∃ t, AccessKeeps s t ∧ storeFrom rd z a s = .next (t.advance 2)) := by
  unfold storeFrom Access.andThen
  rcases memWrite_cases a z (s.lo rd) s with ⟨-, h⟩ | ⟨-, -, h⟩ | ⟨-, -, t, h, hk⟩
  · exact .inl ⟨_, by rw [h]⟩
  · exact .inl ⟨_, by rw [h]⟩
  · exact .inr ⟨t, hk, by rw [h]⟩

/-- What a fetch can do. -/
theorem fetchInstr_cases (s : State) :
    (∃ x t, fetchInstr s = .trap x t ∧ ReadKeeps s t) ∨ (fetchInstr s = .refused .storedCodeFetch) ∨
    (∃ h h2 t, fetchInstr s = .ok h h2 t ∧ ReadKeeps s t) := by
  unfold fetchInstr
  rcases memRead_cases .fetch s.pc .half s with ⟨-, h⟩ | ⟨-, -, h⟩ | ⟨-, -, v, t, h, hk⟩
  · exact .inl ⟨_, _, by rw [h], .refl _⟩
  · exact .inl ⟨_, _, by rw [h], .refl _⟩
  · rw [h]
    simp only
    split
    · exact .inr (.inl rfl)
    · split
      · rcases memRead_cases .fetch (s.pc + 2) .half t with ⟨-, h2⟩ | ⟨-, -, h2⟩ | ⟨-, -, w, u, h2, hk2⟩
        · exact .inl ⟨_, _, by rw [h2], hk⟩
        · exact .inl ⟨_, _, by rw [h2], hk⟩
        · rw [h2]
          simp only
          split
          · exact .inr (.inl rfl)
          · exact .inr (.inr ⟨_, _, _, rfl, hk.trans hk2⟩)
      · exact .inr (.inr ⟨_, _, _, rfl, hk⟩)

/-! ### Shifts -/

/-- Amount 0 keeps the value and `C`. -/
@[simp] theorem shiftBy_zero (op : Word → Nat → Word × Bool) (x : Word) (f : Flags) :
    shiftBy op x 0 f = (x, f.setNZ x) := rfl

theorem shiftBy_pos (op : Word → Nat → Word × Bool) (x : Word) {n : Nat} (h : n ≠ 0) (f : Flags) :
    shiftBy op x n f = ((op x n).1, { f.setNZ (op x n).1 with c := (op x n).2 }) := if_neg h

end Sys2Proof.Machine
end

