-- ==== Sys2Proof/Laws/PerInstr.lean ====
section
/-! SUPPORT. Statements made for each instruction. -/

namespace Sys2Proof.Laws.EncodedLength

open Sys2Proof

/-- The first halfword tells the length of the encoding: two halfwords where it begins 11110, else one (R81). -/
def Statement (i : Instr) : Prop := ∃ h, (encode i).head? = some h ∧ (encode i).length = if isWide h then 2 else 1

theorem narrow {i : Instr} {h : Half} (e : encode i = [h]) (w : h.extractLsb' 11 5 ≠ 0b11110#5) : Statement i := by
  refine ⟨h, congrArg List.head? e, ?_⟩
  rw [e, isWide_eq]
  simp [w]

theorem wide {i : Instr} {h h2 : Half} (e : encode i = [h, h2]) (w : h.extractLsb' 11 5 = 0b11110#5) :
    Statement i := by
  refine ⟨h, congrArg List.head? e, ?_⟩
  rw [e, isWide_eq]
  simp [w]

theorem movImm : ∀ rd u8, Statement (.movImm rd u8) :=
  fun _ _ => narrow rfl (by simp)

theorem movReg : ∀ rd rm, Statement (.movReg rd rm) :=
  fun _ _ => narrow rfl (by simp)

theorem addImm8 : ∀ rd u8, Statement (.addImm8 rd u8) :=
  fun _ _ => narrow rfl (by simp)

theorem subImm8 : ∀ rd u8, Statement (.subImm8 rd u8) :=
  fun _ _ => narrow rfl (by simp)

theorem adr : ∀ rd u8, Statement (.adr rd u8) :=
  fun _ _ => narrow rfl (by simp)

theorem addHi : ∀ rd rm, Statement (.addHi rd rm) :=
  fun _ _ => narrow rfl (by simp)

theorem addImm3 : ∀ rd rn u3, Statement (.addImm3 rd rn u3) :=
  fun _ _ _ => narrow rfl (by simp)

theorem subImm3 : ∀ rd rn u3, Statement (.subImm3 rd rn u3) :=
  fun _ _ _ => narrow rfl (by simp)

theorem addReg : ∀ rd rn rm, Statement (.addReg rd rn rm) :=
  fun _ _ _ => narrow rfl (by simp)

theorem subReg : ∀ rd rn rm, Statement (.subReg rd rn rm) :=
  fun _ _ _ => narrow rfl (by simp)

theorem neg : ∀ rd rm, Statement (.neg rd rm) :=
  fun _ _ => narrow rfl (by simp)

theorem mul : ∀ rd rm, Statement (.mul rd rm) :=
  fun _ _ => narrow rfl (by simp)

theorem lslImm : ∀ rd rm u5, Statement (.lslImm rd rm u5) :=
  fun _ _ _ => narrow rfl (by simp)

theorem lsrImm : ∀ rd rm u5, Statement (.lsrImm rd rm u5) :=
  fun _ _ _ => narrow rfl (by simp)

theorem lslReg : ∀ rd rm, Statement (.lslReg rd rm) :=
  fun _ _ => narrow rfl (by simp)

theorem lsrReg : ∀ rd rm, Statement (.lsrReg rd rm) :=
  fun _ _ => narrow rfl (by simp)

theorem mvn : ∀ rd rm, Statement (.mvn rd rm) :=
  fun _ _ => narrow rfl (by simp)

theorem andReg : ∀ rd rm, Statement (.andReg rd rm) :=
  fun _ _ => narrow rfl (by simp)

theorem orrReg : ∀ rd rm, Statement (.orrReg rd rm) :=
  fun _ _ => narrow rfl (by simp)

theorem eorReg : ∀ rd rm, Statement (.eorReg rd rm) :=
  fun _ _ => narrow rfl (by simp)

theorem ldrbImm : ∀ rd rn u5, Statement (.ldrbImm rd rn u5) :=
  fun _ _ _ => narrow rfl (by simp)

theorem ldrhImm : ∀ rd rn u5, Statement (.ldrhImm rd rn u5) :=
  fun _ _ _ => narrow rfl (by simp)

theorem ldrImm : ∀ rd rn u5, Statement (.ldrImm rd rn u5) :=
  fun _ _ _ => narrow rfl (by simp)

theorem ldrPc : ∀ rd u8, Statement (.ldrPc rd u8) :=
  fun _ _ => narrow rfl (by simp)

theorem ldrbReg : ∀ rd rn rm, Statement (.ldrbReg rd rn rm) :=
  fun _ _ _ => narrow rfl (by simp)

theorem ldrsbReg : ∀ rd rn rm, Statement (.ldrsbReg rd rn rm) :=
  fun _ _ _ => narrow rfl (by simp)

theorem ldrhReg : ∀ rd rn rm, Statement (.ldrhReg rd rn rm) :=
  fun _ _ _ => narrow rfl (by simp)

theorem ldrshReg : ∀ rd rn rm, Statement (.ldrshReg rd rn rm) :=
  fun _ _ _ => narrow rfl (by simp)

theorem ldrReg : ∀ rd rn rm, Statement (.ldrReg rd rn rm) :=
  fun _ _ _ => narrow rfl (by simp)

theorem strbImm : ∀ rd rn u5, Statement (.strbImm rd rn u5) :=
  fun _ _ _ => narrow rfl (by simp)

theorem strhImm : ∀ rd rn u5, Statement (.strhImm rd rn u5) :=
  fun _ _ _ => narrow rfl (by simp)

theorem strImm : ∀ rd rn u5, Statement (.strImm rd rn u5) :=
  fun _ _ _ => narrow rfl (by simp)

theorem strbReg : ∀ rd rn rm, Statement (.strbReg rd rn rm) :=
  fun _ _ _ => narrow rfl (by simp)

theorem strhReg : ∀ rd rn rm, Statement (.strhReg rd rn rm) :=
  fun _ _ _ => narrow rfl (by simp)

theorem strReg : ∀ rd rn rm, Statement (.strReg rd rn rm) :=
  fun _ _ _ => narrow rfl (by simp)

theorem cmpImm : ∀ rn u8, Statement (.cmpImm rn u8) :=
  fun _ _ => narrow rfl (by simp)

theorem cmpHi : ∀ rn rm, Statement (.cmpHi rn rm) :=
  fun _ _ => narrow rfl (by simp)

theorem cmpReg : ∀ rn rm, Statement (.cmpReg rn rm) :=
  fun _ _ => narrow rfl (by simp)

theorem cmn : ∀ rn rm, Statement (.cmn rn rm) :=
  fun _ _ => narrow rfl (by simp)

theorem tst : ∀ rn rm, Statement (.tst rn rm) :=
  fun _ _ => narrow rfl (by simp)

theorem ifZero : ∀ n8, Statement (.ifZero n8) :=
  fun _ => narrow rfl (formatBC_narrow _ _)

theorem ifNonZero : ∀ n8, Statement (.ifNonZero n8) :=
  fun _ => narrow rfl (formatBC_narrow _ _)

theorem ifCond : ∀ cond n8, Statement (.ifCond cond n8) :=
  fun _ _ => narrow rfl (formatBC_narrow _ _)

theorem gotoImm : ∀ n11, Statement (.gotoImm n11) :=
  fun _ => narrow rfl (by simp)

theorem gotoReg : ∀ rm, Statement (.gotoReg rm) :=
  fun _ => narrow rfl (by simp)

theorem gosubReg : ∀ rm, Statement (.gosubReg rm) :=
  fun _ => narrow rfl (by simp)

theorem gosubImm : ∀ n22, Statement (.gosubImm n22) :=
  fun _ => wide rfl (formatB11_extract_11_5 _ _)

theorem ret : Statement .ret := narrow rfl (by decide)

theorem push : ∀ list, Statement (.push list) :=
  fun _ => narrow rfl (by simp)

theorem pop : ∀ list, Statement (.pop list) :=
  fun _ => narrow rfl (by simp)

theorem spAdd : ∀ u7, Statement (.spAdd u7) :=
  fun _ => narrow rfl (by simp)

theorem spSub : ∀ u7, Statement (.spSub u7) :=
  fun _ => narrow rfl (by simp)

theorem addSp : ∀ rd u8, Statement (.addSp rd u8) :=
  fun _ _ => narrow rfl (by simp)

theorem ldrSp : ∀ rd u8, Statement (.ldrSp rd u8) :=
  fun _ _ => narrow rfl (by simp)

theorem strSp : ∀ rd u8, Statement (.strSp rd u8) :=
  fun _ _ => narrow rfl (by simp)

theorem rev : ∀ rd rm, Statement (.rev rd rm) :=
  fun _ _ => narrow rfl (by simp)

theorem rev16 : ∀ rd rm, Statement (.rev16 rd rm) :=
  fun _ _ => narrow rfl (by simp)

theorem revsh : ∀ rd rm, Statement (.revsh rd rm) :=
  fun _ _ => narrow rfl (by simp)

theorem asrImm : ∀ rd rm u5, Statement (.asrImm rd rm u5) :=
  fun _ _ _ => narrow rfl (by simp)

theorem asrReg : ∀ rd rm, Statement (.asrReg rd rm) :=
  fun _ _ => narrow rfl (by simp)

theorem bic : ∀ rd rm, Statement (.bic rd rm) :=
  fun _ _ => narrow rfl (by simp)

theorem ror : ∀ rd rm, Statement (.ror rd rm) :=
  fun _ _ => narrow rfl (by simp)

theorem adc : ∀ rd rm, Statement (.adc rd rm) :=
  fun _ _ => narrow rfl (by simp)

theorem sbc : ∀ rd rm, Statement (.sbc rd rm) :=
  fun _ _ => narrow rfl (by simp)

theorem ldm : ∀ rn list, Statement (.ldm rn list) :=
  fun _ _ => narrow rfl (by simp)

theorem stm : ∀ rn list, Statement (.stm rn list) :=
  fun _ _ => narrow rfl (by simp)

theorem nop : Statement .nop := narrow rfl (by decide)

theorem cpsid : Statement .cpsid := narrow rfl (by decide)

theorem cpsie : Statement .cpsie := narrow rfl (by decide)

theorem wfi : Statement .wfi := narrow rfl (by decide)

theorem bkpt : ∀ u8, Statement (.bkpt u8) :=
  fun _ => narrow rfl (by simp)

theorem svc : ∀ u8, Statement (.svc u8) :=
  fun _ => narrow rfl (by simp)

theorem sxtb : ∀ rd rm, Statement (.sxtb rd rm) :=
  fun _ _ => narrow rfl (by simp)

theorem sxth : ∀ rd rm, Statement (.sxth rd rm) :=
  fun _ _ => narrow rfl (by simp)

theorem uxtb : ∀ rd rm, Statement (.uxtb rd rm) :=
  fun _ _ => narrow rfl (by simp)

theorem uxth : ∀ rd rm, Statement (.uxth rd rm) :=
  fun _ _ => narrow rfl (by simp)

theorem dmb : ∀ option, Statement (.dmb option) :=
  fun _ => wide rfl (by decide)

theorem dsb : ∀ option, Statement (.dsb option) :=
  fun _ => wide rfl (by decide)

theorem isb : ∀ option, Statement (.isb option) :=
  fun _ => wide rfl (by decide)

theorem mrs : ∀ rd sysm, Statement (.mrs rd sysm) :=
  fun _ _ => wide rfl (by decide)

theorem msr : ∀ rn sysm, Statement (.msr rn sysm) :=
  fun rn _ => wide rfl (by revert rn; decide)

theorem sev : Statement .sev := narrow rfl (by decide)

theorem wfe : Statement .wfe := narrow rfl (by decide)

theorem yieldHint : Statement .yieldHint := narrow rfl (by decide)

end Sys2Proof.Laws.EncodedLength
end

