-- ==== Sys2Proof/Machine/Timing.lean ====
section
/-! DEFINITION. The cycles column of the source (70_reset_and_hazards R341). No rule and no other file depends on it
(log 28). -/

namespace Sys2Proof.Machine

/-- A cycle count that depends on whether a branch is taken: 1, or 3 (R341). -/
def branchCycles (taken : Bool) : Option Nat := some (if taken then 3 else 1)

/-- The cycles R341 gives an instruction in a state; `none` where they depend on the settings. -/
def cycles (i : Instr) (s : State) : Option Nat :=
  match i with
  | .movReg rd _ => branchCycles (rd == 15)
  | .addHi rd _ => branchCycles (rd == 15)
  | .ifZero _ => branchCycles (conditionPassed 0 s.flags)
  | .ifNonZero _ => branchCycles (conditionPassed 1 s.flags)
  | .ifCond cond _ => branchCycles (conditionPassed cond s.flags)
  | .ldrbImm _ _ _ => some 2
  | .ldrhImm _ _ _ => some 2
  | .ldrImm _ _ _ => some 2
  | .ldrPc _ _ => some 2
  | .ldrbReg _ _ _ => some 2
  | .ldrsbReg _ _ _ => some 2
  | .ldrhReg _ _ _ => some 2
  | .ldrshReg _ _ _ => some 2
  | .ldrReg _ _ _ => some 2
  | .strbImm _ _ _ => some 2
  | .strhImm _ _ _ => some 2
  | .strImm _ _ _ => some 2
  | .strbReg _ _ _ => some 2
  | .strhReg _ _ _ => some 2
  | .strReg _ _ _ => some 2
  | .ldrSp _ _ => some 2
  | .strSp _ _ => some 2
  | .wfi => some 2
  | .wfe => some 2
  | .gotoImm _ => some 3
  | .gotoReg _ => some 3
  | .gosubReg _ => some 3
  | .ret => some 3
  | .gosubImm _ => some 4
  | .push list => some (1 + popCount list)
  | .pop list => some ((if list.getLsbD 8 then 4 else 1) + popCount list)
  | .ldm _ list => some (1 + (listedRegs list).length)
  | .stm _ list => some (1 + (listedRegs list).length)
  | .dmb _ => some 4
  | .dsb _ => some 4
  | .isb _ => some 4
  | .mrs _ _ => some 4
  | .msr _ _ => some 4
  | .bkpt _ => none
  | .svc _ => none
  | .movImm _ _ => some 1
  | .addImm8 _ _ => some 1
  | .subImm8 _ _ => some 1
  | .adr _ _ => some 1
  | .addImm3 _ _ _ => some 1
  | .subImm3 _ _ _ => some 1
  | .addReg _ _ _ => some 1
  | .subReg _ _ _ => some 1
  | .neg _ _ => some 1
  | .mul _ _ => some 1
  | .lslImm _ _ _ => some 1
  | .lsrImm _ _ _ => some 1
  | .lslReg _ _ => some 1
  | .lsrReg _ _ => some 1
  | .mvn _ _ => some 1
  | .andReg _ _ => some 1
  | .orrReg _ _ => some 1
  | .eorReg _ _ => some 1
  | .cmpImm _ _ => some 1
  | .cmpHi _ _ => some 1
  | .cmpReg _ _ => some 1
  | .cmn _ _ => some 1
  | .tst _ _ => some 1
  | .spAdd _ => some 1
  | .spSub _ => some 1
  | .addSp _ _ => some 1
  | .rev _ _ => some 1
  | .rev16 _ _ => some 1
  | .revsh _ _ => some 1
  | .asrImm _ _ _ => some 1
  | .asrReg _ _ => some 1
  | .bic _ _ => some 1
  | .ror _ _ => some 1
  | .adc _ _ => some 1
  | .sbc _ _ => some 1
  | .nop => some 1
  | .cpsid => some 1
  | .cpsie => some 1
  | .sxtb _ _ => some 1
  | .sxth _ _ => some 1
  | .uxtb _ _ => some 1
  | .uxth _ _ => some 1
  | .sev => some 1
  | .yieldHint => some 1

end Sys2Proof.Machine
end

