-- ==== Sys2Proof/Tests/Slice0.lean ====
section
/-! SUPPORT. Tests: the checks of `Instr.wellFormed`, decoding of words written out from the encodings of 30_encoding,
the vectors of 95_test_vectors one step each, and a state that meets the hypotheses of each statement. -/

namespace Sys2Proof.Tests

open Sys2Proof Sys2Proof.Machine Sys2Proof.Claims

/-! ### Ill-formed terms -/

/-- R89: the all-zero word is `NOP`. -/
theorem test_illFormed_shiftThatIsNop : (Instr.lslImm 0 0 0).wellFormed = false := by decide

/-- R89: `cond` 0 is `IF 0 GOTO`. -/
theorem test_illFormed_condZero : (Instr.ifCond 0 0x7F).wellFormed = false := by decide

/-- R89: `cond` 1 is `IF !0 GOTO`. -/
theorem test_illFormed_condOne : (Instr.ifCond 1 0x7F).wellFormed = false := by decide

/-- R86: `cond` 15 is `SVC`. -/
theorem test_illFormed_condFifteen : (Instr.ifCond 15 0x7F).wellFormed = false := by decide

/-- R89: `GOTO LR` is `RET`. -/
theorem test_illFormed_gotoLr : (Instr.gotoReg 14).wellFormed = false := by decide

/-! ### Decoding, words written out from R80 to R97: Rd 5, Rn 3, Rm 6, u3 6, u5 10110, u8 10100101, 4-bit Rd 13 -/

theorem test_decode_assign :
    decode 0x25A5 none = .ok (.movImm 0x5 0xA5) ∧
    decode 0x46B5 none = .ok (.movReg 0xD 0x6) := by decide

theorem test_decode_arith :
    decode 0x35A5 none = .ok (.addImm8 0x5 0xA5) ∧
    decode 0x3DA5 none = .ok (.subImm8 0x5 0xA5) ∧
    decode 0xA5A5 none = .ok (.adr 0x5 0xA5) ∧
    decode 0x44B5 none = .ok (.addHi 0xD 0x6) ∧
    decode 0x1D9D none = .ok (.addImm3 0x5 0x3 0x6) ∧
    decode 0x1F9D none = .ok (.subImm3 0x5 0x3 0x6) ∧
    decode 0x199D none = .ok (.addReg 0x5 0x3 0x6) ∧
    decode 0x1B9D none = .ok (.subReg 0x5 0x3 0x6) ∧
    decode 0x4275 none = .ok (.neg 0x5 0x6) ∧
    decode 0x4375 none = .ok (.mul 0x5 0x6) := by decide

theorem test_decode_shift_and_logic :
    decode 0x05B5 none = .ok (.lslImm 0x5 0x6 0x16) ∧
    decode 0x0DB5 none = .ok (.lsrImm 0x5 0x6 0x16) ∧
    decode 0x40B5 none = .ok (.lslReg 0x5 0x6) ∧
    decode 0x40F5 none = .ok (.lsrReg 0x5 0x6) ∧
    decode 0x43F5 none = .ok (.mvn 0x5 0x6) ∧
    decode 0x4035 none = .ok (.andReg 0x5 0x6) ∧
    decode 0x4335 none = .ok (.orrReg 0x5 0x6) ∧
    decode 0x4075 none = .ok (.eorReg 0x5 0x6) := by decide

theorem test_decode_load :
    decode 0x7D9D none = .ok (.ldrbImm 0x5 0x3 0x16) ∧
    decode 0x8D9D none = .ok (.ldrhImm 0x5 0x3 0x16) ∧
    decode 0x6D9D none = .ok (.ldrImm 0x5 0x3 0x16) ∧
    decode 0x4DA5 none = .ok (.ldrPc 0x5 0xA5) ∧
    decode 0x5D9D none = .ok (.ldrbReg 0x5 0x3 0x6) ∧
    decode 0x579D none = .ok (.ldrsbReg 0x5 0x3 0x6) ∧
    decode 0x5B9D none = .ok (.ldrhReg 0x5 0x3 0x6) ∧
    decode 0x5F9D none = .ok (.ldrshReg 0x5 0x3 0x6) ∧
    decode 0x599D none = .ok (.ldrReg 0x5 0x3 0x6) := by decide

theorem test_decode_store :
    decode 0x759D none = .ok (.strbImm 0x5 0x3 0x16) ∧
    decode 0x859D none = .ok (.strhImm 0x5 0x3 0x16) ∧
    decode 0x659D none = .ok (.strImm 0x5 0x3 0x16) ∧
    decode 0x559D none = .ok (.strbReg 0x5 0x3 0x6) ∧
    decode 0x539D none = .ok (.strhReg 0x5 0x3 0x6) ∧
    decode 0x519D none = .ok (.strReg 0x5 0x3 0x6) := by decide

theorem test_decode_compare :
    decode 0x2BA5 none = .ok (.cmpImm 0x3 0xA5) ∧
    decode 0x45B5 none = .ok (.cmpHi 0xD 0x6) ∧
    decode 0x42B3 none = .ok (.cmpReg 0x3 0x6) ∧
    decode 0x42F3 none = .ok (.cmn 0x3 0x6) ∧
    decode 0x4233 none = .ok (.tst 0x3 0x6) := by decide

theorem test_decode_branch :
    decode 0xD085 none = .ok (.ifZero 0x85) ∧
    decode 0xD185 none = .ok (.ifNonZero 0x85) ∧
    decode 0xDB85 none = .ok (.ifCond 0xB 0x85) ∧
    decode 0xE4C3 none = .ok (.gotoImm 0x4C3) ∧
    decode 0x4748 none = .ok (.gotoReg 0x9) ∧
    decode 0x47C8 none = .ok (.gosubReg 0x9) ∧
    decode 0xF587 (some 0xFA95) = .ok (.gosubImm 0x2C3A95) ∧
    decode 0x4770 none = .ok (.ret) := by decide

theorem test_decode_stack :
    decode 0xB5A5 none = .ok (.push 0x1A5) ∧
    decode 0xBDA5 none = .ok (.pop 0x1A5) ∧
    decode 0xB065 none = .ok (.spAdd 0x65) ∧
    decode 0xB0E5 none = .ok (.spSub 0x65) ∧
    decode 0xADA5 none = .ok (.addSp 0x5 0xA5) ∧
    decode 0x9DA5 none = .ok (.ldrSp 0x5 0xA5) ∧
    decode 0x95A5 none = .ok (.strSp 0x5 0xA5) := by decide

theorem test_decode_special :
    decode 0xBA35 none = .ok (.rev 0x5 0x6) ∧
    decode 0xBA75 none = .ok (.rev16 0x5 0x6) ∧
    decode 0xBAF5 none = .ok (.revsh 0x5 0x6) ∧
    decode 0x15B5 none = .ok (.asrImm 0x5 0x6 0x16) ∧
    decode 0x4135 none = .ok (.asrReg 0x5 0x6) ∧
    decode 0x43B5 none = .ok (.bic 0x5 0x6) ∧
    decode 0x41F5 none = .ok (.ror 0x5 0x6) ∧
    decode 0x4175 none = .ok (.adc 0x5 0x6) ∧
    decode 0x41B5 none = .ok (.sbc 0x5 0x6) := by decide

theorem test_decode_multimem :
    decode 0xCBA5 none = .ok (.ldm 0x3 0xA5) ∧
    decode 0xC3A5 none = .ok (.stm 0x3 0xA5) := by decide

theorem test_decode_misc :
    decode 0x0000 none = .ok (.nop) ∧
    decode 0xB672 none = .ok (.cpsid) ∧
    decode 0xB662 none = .ok (.cpsie) ∧
    decode 0xBF30 none = .ok (.wfi) ∧
    decode 0xBEA5 none = .ok (.bkpt 0xA5) ∧
    decode 0xDFA5 none = .ok (.svc 0xA5) := by decide

theorem test_decode_unknown :
    decode 0xB275 none = .ok (.sxtb 0x5 0x6) ∧
    decode 0xB235 none = .ok (.sxth 0x5 0x6) ∧
    decode 0xB2F5 none = .ok (.uxtb 0x5 0x6) ∧
    decode 0xB2B5 none = .ok (.uxth 0x5 0x6) ∧
    decode 0xF3BF (some 0x8F5F) = .ok (.dmb 0xF) ∧
    decode 0xF3BF (some 0x8F4F) = .ok (.dsb 0xF) ∧
    decode 0xF3BF (some 0x8F6F) = .ok (.isb 0xF) ∧
    decode 0xF3EF (some 0x8A14) = .ok (.mrs 0xA 0x14) ∧
    decode 0xF38A (some 0x8814) = .ok (.msr 0xA 0x14) ∧
    decode 0xBF40 none = .ok (.sev) ∧
    decode 0xBF20 none = .ok (.wfe) ∧
    decode 0xBF10 none = .ok (.yieldHint) := by decide

/-- R95: halfwords and pairs with no instruction. -/
theorem test_decode_unassigned :
    decode 0x4719 none = .error (.unassigned 0x4719 none) ∧
    decode 0xB1FF none = .error (.unassigned 0xB1FF none) ∧
    decode 0xF800 none = .error (.unassigned 0xF800 none) ∧
    decode 0xF000 (some 0x0000) = .error (.unassigned 0xF000 (some 0x0000)) := by decide

/-! ### Vectors of 95_test_vectors -/

/-- Halfwords stored from an address up. -/
def putCode (m : Memory) (a : Word) : List Word → Memory
  | [] => m
  | h :: hs => putCode (m.store a 2 h) (a + 2) hs

/-- The start state of a vector: terminal traps, its code, words, registers and flags. -/
def start (pc : Word) (code : List Word) (words : List (Word × Word)) (regs : List (BitVec 4 × Word)) (f : Flags)
    (map : List Region) (imm : ImmShift0 := .amount32) (pm : Bool := false) : State :=
  regs.foldl (fun s e => s.setReg e.1 e.2)
    { State.reset with
      pc := pc, flags := f, pm := pm
      mem := words.foldl (fun m w => m.store w.1 4 w.2) (putCode [] pc code)
      cfg := ⟨imm, .always, .terminal, .admitted, map⟩ }

/-- The state, where the outcome is one. -/
def nextIs (o : Host.Outcome State Fault Refusal) (p : State → Bool) : Bool :=
  match o with
  | .next s => p s
  | _ => false

/-- Whether the outcome is a refusal. -/
def isRefused (o : Host.Outcome State Fault Refusal) : Bool :=
  match o with
  | .refused _ => true
  | _ => false

/-- The reported pc and the info of a trap that ends the run. -/
def trapOf (o : Host.Outcome State Fault Refusal) : Option (String × Word × Word) :=
  match o with
  | .fault (.undefinedInstruction h h2 p _) => some ("UndefinedInstruction", h.setWidth 32 <<< 16 ||| (h2.getD 0).setWidth 32, p)
  | .fault (.unalignedAccess a p _) => some ("UnalignedAccess", a, p)
  | .fault (.busFault a _ p _) => some ("BusFault", a, p)
  | .fault (.invalidState v p _) => some ("InvalidState", v, p)
  | .fault (.svCall u p _) => some ("SVCall", u.setWidth 32, p)
  | .fault (.breakpoint u p _) => some ("Breakpoint", u.setWidth 32, p)
  | _ => none

/-- A region of code. -/
def codeAt (a : Nat) : Region := ⟨a, 64, true, false, true, .plain⟩

/-- A region of data. -/
def dataAt (a n : Nat) : Region := ⟨a, n, true, true, false, .plain⟩

/-- 95_test_vectors 2.1: `R3 = 0`. -/
theorem test_movImm :
    nextIs (step (start 0x100 [0x2300] [] [] ⟨false, false, false, false⟩ [codeAt 0x100]))
      (fun s => s.reg 3 == 0x0 && s.pc == 0x102 && s.flags == ⟨false, true, false, false⟩) = true := by decide

/-- 95_test_vectors 2.1: `PC = LR (bit0=0)`. -/
theorem test_movReg :
    nextIs (step (start 0x100 [0x46F7] [] [(14, 0x200)] ⟨false, false, false, false⟩ [codeAt 0x100]))
      (fun s => s.pc == 0x200 && s.flags == ⟨false, false, false, false⟩) = true := by decide

/-- 95_test_vectors 2.1: `SP = R0`. -/
theorem test_movReg_second :
    nextIs (step (start 0x100 [0x4685] [] [(0, 0x10000FFF)] ⟨false, false, false, false⟩ [codeAt 0x100]))
      (fun s => s.reg 13 == 0x10000FFC && s.pc == 0x102 && s.flags == ⟨false, false, false, false⟩) = true := by decide

/-- 95_test_vectors 2.2: `R0 += 1`. -/
theorem test_addImm8 :
    nextIs (step (start 0x100 [0x3001] [] [(0, 0x7FFFFFFF)] ⟨false, false, false, false⟩ [codeAt 0x100]))
      (fun s => s.reg 0 == 0x80000000 && s.pc == 0x102 && s.flags == ⟨true, false, false, true⟩) = true := by decide

/-- 95_test_vectors 2.2: `R0 -= 1`. -/
theorem test_subImm8 :
    nextIs (step (start 0x100 [0x3801] [] [(0, 0x80000000)] ⟨false, false, false, false⟩ [codeAt 0x100]))
      (fun s => s.reg 0 == 0x7FFFFFFF && s.pc == 0x102 && s.flags == ⟨false, false, true, true⟩) = true := by decide

/-- 95_test_vectors 2.2: `R0 = PC + 1`. -/
theorem test_adr :
    nextIs (step (start 0x102 [0xA001] [] [] ⟨false, false, false, false⟩ [codeAt 0x100]))
      (fun s => s.reg 0 == 0x108 && s.pc == 0x104 && s.flags == ⟨false, false, false, false⟩) = true := by decide

/-- 95_test_vectors 2.2: `PC += R0`. -/
theorem test_addHi :
    nextIs (step (start 0x100 [0x4487] [] [(0, 0x4)] ⟨false, false, false, false⟩ [codeAt 0x100]))
      (fun s => s.pc == 0x108 && s.flags == ⟨false, false, false, false⟩) = true := by decide

/-- 95_test_vectors 2.2: `PC += PC`. -/
theorem test_addHi_second :
    isRefused (step (start 0x100 [0x44FF] [] [] ⟨false, false, false, false⟩ [codeAt 0x100])) = true := by decide

/-- 95_test_vectors 2.2: `R1 = R0 + 7`. -/
theorem test_addImm3 :
    nextIs (step (start 0x100 [0x1DC1] [] [(0, 0x7FFFFFF9)] ⟨false, false, false, false⟩ [codeAt 0x100]))
      (fun s => s.reg 1 == 0x80000000 && s.pc == 0x102 && s.flags == ⟨true, false, false, true⟩) = true := by decide

/-- 95_test_vectors 2.2: `R1 = R0 - 1`. -/
theorem test_subImm3 :
    nextIs (step (start 0x100 [0x1E41] [] [(0, 0x0)] ⟨false, false, false, false⟩ [codeAt 0x100]))
      (fun s => s.reg 1 == 0xFFFFFFFF && s.pc == 0x102 && s.flags == ⟨true, false, false, false⟩) = true := by decide

/-- 95_test_vectors 2.2: `R2 = R0 + R1`. -/
theorem test_addReg :
    nextIs (step (start 0x100 [0x1842] [] [(0, 0x40000000), (1, 0x40000000)] ⟨false, false, false, false⟩ [codeAt 0x100]))
      (fun s => s.reg 2 == 0x80000000 && s.pc == 0x102 && s.flags == ⟨true, false, false, true⟩) = true := by decide

/-- 95_test_vectors 2.2: `R2 = R0 - R1`. -/
theorem test_subReg :
    nextIs (step (start 0x100 [0x1A42] [] [(0, 0x7FFFFFFF), (1, 0xFFFFFFFF)] ⟨false, false, false, false⟩ [codeAt 0x100]))
      (fun s => s.reg 2 == 0x80000000 && s.pc == 0x102 && s.flags == ⟨true, false, false, true⟩) = true := by decide

/-- 95_test_vectors 2.2: `R0 = -R1`. -/
theorem test_neg :
    nextIs (step (start 0x100 [0x4248] [] [(1, 0x1)] ⟨false, false, false, false⟩ [codeAt 0x100]))
      (fun s => s.reg 0 == 0xFFFFFFFF && s.pc == 0x102 && s.flags == ⟨true, false, false, false⟩) = true := by decide

/-- 95_test_vectors 2.2: `R0 *= R1`. -/
theorem test_mul :
    nextIs (step (start 0x100 [0x4348] [] [(0, 0xFFFFFFFF), (1, 0x2)] ⟨false, false, false, false⟩ [codeAt 0x100]))
      (fun s => s.reg 0 == 0xFFFFFFFE && s.pc == 0x102 && s.flags == ⟨true, false, false, false⟩) = true := by decide

/-- 95_test_vectors 2.2: `R1 = R0 << 31`. -/
theorem test_lslImm :
    nextIs (step (start 0x100 [0x7C1] [] [(0, 0x3)] ⟨false, false, false, false⟩ [codeAt 0x100]))
      (fun s => s.reg 1 == 0x80000000 && s.pc == 0x102 && s.flags == ⟨true, false, true, false⟩) = true := by decide

/-- 95_test_vectors 2.2: `R1 = R0 >> [field 0], amount32`. -/
theorem test_lsrImm :
    nextIs (step (start 0x100 [0x801] [] [(0, 0x80000000)] ⟨false, false, false, false⟩ [codeAt 0x100]))
      (fun s => s.reg 1 == 0x0 && s.pc == 0x102 && s.flags == ⟨false, true, true, false⟩) = true := by decide

/-- 95_test_vectors 2.2: `R1 = R0 >> [field 0], amount0`. -/
theorem test_lsrImm_second :
    nextIs (step (start 0x100 [0x801] [] [(0, 0x80000000)] ⟨false, false, false, false⟩ [codeAt 0x100] (imm := .amount0)))
      (fun s => s.reg 1 == 0x80000000 && s.pc == 0x102 && s.flags == ⟨true, false, false, false⟩) = true := by decide

/-- 95_test_vectors 2.2: `R0 <<= R1`. -/
theorem test_lslReg :
    nextIs (step (start 0x100 [0x4088] [] [(0, 0x1), (1, 0x21)] ⟨false, false, true, false⟩ [codeAt 0x100]))
      (fun s => s.reg 0 == 0x0 && s.pc == 0x102 && s.flags == ⟨false, true, false, false⟩) = true := by decide

/-- 95_test_vectors 2.2: `R0 <<= R1`. -/
theorem test_lslReg_second :
    nextIs (step (start 0x100 [0x4088] [] [(0, 0xFFFFFFFF), (1, 0xFF)] ⟨false, false, true, false⟩ [codeAt 0x100]))
      (fun s => s.reg 0 == 0x0 && s.pc == 0x102 && s.flags == ⟨false, true, false, false⟩) = true := by decide

/-- 95_test_vectors 2.2: `R0 >>= R1`. -/
theorem test_lsrReg :
    nextIs (step (start 0x100 [0x40C8] [] [(0, 0x80000000), (1, 0x20)] ⟨false, false, false, false⟩ [codeAt 0x100]))
      (fun s => s.reg 0 == 0x0 && s.pc == 0x102 && s.flags == ⟨false, true, true, false⟩) = true := by decide

/-- 95_test_vectors 2.2: `R0 = ~R1`. -/
theorem test_mvn :
    nextIs (step (start 0x100 [0x43C8] [] [(1, 0xFFFFFFFF)] ⟨false, false, true, true⟩ [codeAt 0x100]))
      (fun s => s.reg 0 == 0x0 && s.pc == 0x102 && s.flags == ⟨false, true, true, true⟩) = true := by decide

/-- 95_test_vectors 2.2: `R0 &= R1`. -/
theorem test_andReg :
    nextIs (step (start 0x100 [0x4008] [] [(0, 0xF0F0F0F0), (1, 0xF0F0F0F)] ⟨false, false, true, true⟩ [codeAt 0x100]))
      (fun s => s.reg 0 == 0x0 && s.pc == 0x102 && s.flags == ⟨false, true, true, true⟩) = true := by decide

/-- 95_test_vectors 2.2: `R0 OR R1`. -/
theorem test_orrReg :
    nextIs (step (start 0x100 [0x4308] [] [(0, 0xF0F0F0F0), (1, 0xF0F0F0F)] ⟨false, false, true, true⟩ [codeAt 0x100]))
      (fun s => s.reg 0 == 0xFFFFFFFF && s.pc == 0x102 && s.flags == ⟨true, false, true, true⟩) = true := by decide

/-- 95_test_vectors 2.2: `R0 ^= R1`. -/
theorem test_eorReg :
    nextIs (step (start 0x100 [0x4048] [] [(0, 0xFF00FF00), (1, 0xFF00FF00)] ⟨false, false, true, true⟩ [codeAt 0x100]))
      (fun s => s.reg 0 == 0x0 && s.pc == 0x102 && s.flags == ⟨false, true, true, true⟩) = true := by decide

/-- 95_test_vectors 2.3: `R1 = [R0 + 3]`. -/
theorem test_ldrbImm :
    nextIs (step (start 0x100 [0x78C1] [(0x10000000, 0x11223344), (0x10000004, 0x8899AABB)] [(0, 0x10000000)] ⟨false, false, false, false⟩ [dataAt 0x10000000 0x8, codeAt 0x100]))
      (fun s => s.reg 1 == 0x11 && s.pc == 0x102 && s.flags == ⟨false, false, false, false⟩) = true := by decide

/-- 95_test_vectors 2.3: `R1 = [R0 + 1]W`. -/
theorem test_ldrhImm :
    trapOf (step (start 0x100 [0x8841] [(0x10000000, 0x11223344), (0x10000004, 0x8899AABB)] [(0, 0x10000001)] ⟨false, false, false, false⟩ [dataAt 0x10000000 0x8, codeAt 0x100])) =
      some ("UnalignedAccess", 0x10000003, 0x100) := by decide

/-- 95_test_vectors 2.3: `R1 = [R0 + 1]L`. -/
theorem test_ldrImm :
    nextIs (step (start 0x100 [0x6841] [(0x10000000, 0x11223344), (0x10000004, 0x8899AABB)] [(0, 0x10000000)] ⟨false, false, false, false⟩ [dataAt 0x10000000 0x8, codeAt 0x100]))
      (fun s => s.reg 1 == 0x8899AABB && s.pc == 0x102 && s.flags == ⟨false, false, false, false⟩) = true := by decide

/-- 95_test_vectors 2.3: `R1 = [R0 + 1]L`. -/
theorem test_ldrImm_second :
    trapOf (step (start 0x100 [0x6841] [(0x10000000, 0x11223344), (0x10000004, 0x8899AABB)] [(0, 0x20000000)] ⟨false, false, false, false⟩ [dataAt 0x10000000 0x8, codeAt 0x100])) =
      some ("BusFault", 0x20000004, 0x100) := by decide

/-- 95_test_vectors 2.3: `R0 = [PC + 1]L`. -/
theorem test_ldrPc :
    nextIs (step (start 0x102 [0x4801, 0x0, 0x0, 0x5678, 0x1234] [(0x10000000, 0x11223344), (0x10000004, 0x8899AABB)] [] ⟨false, false, false, false⟩ [dataAt 0x10000000 0x8, codeAt 0x100]))
      (fun s => s.reg 0 == 0x12345678 && s.pc == 0x104 && s.flags == ⟨false, false, false, false⟩) = true := by decide

/-- 95_test_vectors 2.3: `R2 = [R0 + R1]`. -/
theorem test_ldrbReg :
    nextIs (step (start 0x100 [0x5C42] [(0x10000000, 0x11223344), (0x10000004, 0x8899AABB)] [(0, 0x10000000), (1, 0x4)] ⟨false, false, false, false⟩ [dataAt 0x10000000 0x8, codeAt 0x100]))
      (fun s => s.reg 2 == 0xBB && s.pc == 0x102 && s.flags == ⟨false, false, false, false⟩) = true := by decide

/-- 95_test_vectors 2.3: `R2 = [R0 + R1]C`. -/
theorem test_ldrsbReg :
    nextIs (step (start 0x100 [0x5642] [(0x10000000, 0x11223344), (0x10000004, 0x8899AABB)] [(0, 0x10000000), (1, 0x4)] ⟨false, false, false, false⟩ [dataAt 0x10000000 0x8, codeAt 0x100]))
      (fun s => s.reg 2 == 0xFFFFFFBB && s.pc == 0x102 && s.flags == ⟨false, false, false, false⟩) = true := by decide

/-- 95_test_vectors 2.3: `R2 = [R0 + R1]W`. -/
theorem test_ldrhReg :
    nextIs (step (start 0x100 [0x5A42] [(0x10000000, 0x11223344), (0x10000004, 0x8899AABB)] [(0, 0x10000000), (1, 0x4)] ⟨false, false, false, false⟩ [dataAt 0x10000000 0x8, codeAt 0x100]))
      (fun s => s.reg 2 == 0xAABB && s.pc == 0x102 && s.flags == ⟨false, false, false, false⟩) = true := by decide

/-- 95_test_vectors 2.3: `R2 = [R0 + R1]S`. -/
theorem test_ldrshReg :
    nextIs (step (start 0x100 [0x5E42] [(0x10000000, 0x11223344), (0x10000004, 0x8899AABB)] [(0, 0x10000000), (1, 0x4)] ⟨false, false, false, false⟩ [dataAt 0x10000000 0x8, codeAt 0x100]))
      (fun s => s.reg 2 == 0xFFFFAABB && s.pc == 0x102 && s.flags == ⟨false, false, false, false⟩) = true := by decide

/-- 95_test_vectors 2.3: `R2 = [R0 + R1]L`. -/
theorem test_ldrReg :
    nextIs (step (start 0x100 [0x5842] [(0x10000000, 0x11223344), (0x10000004, 0x8899AABB)] [(0, 0x10000000), (1, 0x4)] ⟨false, false, false, false⟩ [dataAt 0x10000000 0x8, codeAt 0x100]))
      (fun s => s.reg 2 == 0x8899AABB && s.pc == 0x102 && s.flags == ⟨false, false, false, false⟩) = true := by decide

/-- 95_test_vectors 2.3: `[R0 + 3] = R1`. -/
theorem test_strbImm :
    nextIs (step (start 0x100 [0x70C1] [(0x10000000, 0x11223344), (0x10000004, 0x8899AABB)] [(0, 0x10000000), (1, 0xABCDEF12)] ⟨false, false, false, false⟩ [dataAt 0x10000000 0x8, codeAt 0x100]))
      (fun s => s.mem.load 0x10000000 4 == 0x12223344 && s.pc == 0x102 && s.flags == ⟨false, false, false, false⟩) = true := by decide

/-- 95_test_vectors 2.3: `[R0 + 1]W = R1`. -/
theorem test_strhImm :
    nextIs (step (start 0x100 [0x8041] [(0x10000000, 0x11223344), (0x10000004, 0x8899AABB)] [(0, 0x10000000), (1, 0xABCDEF12)] ⟨false, false, false, false⟩ [dataAt 0x10000000 0x8, codeAt 0x100]))
      (fun s => s.mem.load 0x10000000 4 == 0xEF123344 && s.pc == 0x102 && s.flags == ⟨false, false, false, false⟩) = true := by decide

/-- 95_test_vectors 2.3: `[R0 + 1]L = R1`. -/
theorem test_strImm :
    nextIs (step (start 0x100 [0x6041] [(0x10000000, 0x11223344), (0x10000004, 0x8899AABB)] [(0, 0x10000000), (1, 0xABCDEF12)] ⟨false, false, false, false⟩ [dataAt 0x10000000 0x8, codeAt 0x100]))
      (fun s => s.mem.load 0x10000000 4 == 0x11223344 && s.mem.load 0x10000004 4 == 0xABCDEF12 && s.pc == 0x102 && s.flags == ⟨false, false, false, false⟩) = true := by decide

/-- 95_test_vectors 2.3: `[R0 + R1] = R2`. -/
theorem test_strbReg :
    nextIs (step (start 0x100 [0x5442] [(0x10000000, 0x11223344), (0x10000004, 0x8899AABB)] [(0, 0x10000000), (1, 0x1), (2, 0xFFFFFF00)] ⟨false, false, false, false⟩ [dataAt 0x10000000 0x8, codeAt 0x100]))
      (fun s => s.mem.load 0x10000000 4 == 0x11220044 && s.pc == 0x102 && s.flags == ⟨false, false, false, false⟩) = true := by decide

/-- 95_test_vectors 2.3: `[R0 + R1]W = R2`. -/
theorem test_strhReg :
    nextIs (step (start 0x100 [0x5242] [(0x10000000, 0x11223344), (0x10000004, 0x8899AABB)] [(0, 0x10000000), (1, 0x2), (2, 0xCAFEBABE)] ⟨false, false, false, false⟩ [dataAt 0x10000000 0x8, codeAt 0x100]))
      (fun s => s.mem.load 0x10000000 4 == 0xBABE3344 && s.pc == 0x102 && s.flags == ⟨false, false, false, false⟩) = true := by decide

/-- 95_test_vectors 2.3: `[R0 + R1]L = R2`. -/
theorem test_strReg :
    nextIs (step (start 0x100 [0x5042] [(0x10000000, 0x11223344), (0x10000004, 0x8899AABB)] [(0, 0x10000000), (1, 0x4), (2, 0xCAFEBABE)] ⟨false, false, false, false⟩ [dataAt 0x10000000 0x8, codeAt 0x100]))
      (fun s => s.mem.load 0x10000004 4 == 0xCAFEBABE && s.pc == 0x102 && s.flags == ⟨false, false, false, false⟩) = true := by decide

/-- 95_test_vectors 2.4: `R0 - 5`. -/
theorem test_cmpImm :
    nextIs (step (start 0x100 [0x2805] [] [(0, 0x4)] ⟨false, false, false, false⟩ [codeAt 0x100]))
      (fun s => s.pc == 0x102 && s.flags == ⟨true, false, false, false⟩) = true := by decide

/-- 95_test_vectors 2.4: `R0 - R1`. -/
theorem test_cmpReg :
    nextIs (step (start 0x100 [0x4288] [] [(0, 0xFFFFFFFF), (1, 0x1)] ⟨false, false, false, false⟩ [codeAt 0x100]))
      (fun s => s.pc == 0x102 && s.flags == ⟨true, false, true, false⟩) = true := by decide

/-- 95_test_vectors 2.4: `R8 - R1`. -/
theorem test_cmpHi :
    nextIs (step (start 0x100 [0x4588] [] [(8, 0x3), (1, 0x3)] ⟨false, false, false, false⟩ [codeAt 0x100]))
      (fun s => s.pc == 0x102 && s.flags == ⟨false, true, true, false⟩) = true := by decide

/-- 95_test_vectors 2.4: `R0 - R1 (4-bit form, both low)`. -/
theorem test_cmpHi_second :
    isRefused (step (start 0x100 [0x4508] [] [(0, 0x2), (1, 0x3)] ⟨false, false, false, false⟩ [codeAt 0x100])) = true := by decide

/-- 95_test_vectors 2.4: `R0 + R1`. -/
theorem test_cmn :
    nextIs (step (start 0x100 [0x42C8] [] [(0, 0x7FFFFFFF), (1, 0x1)] ⟨false, false, false, false⟩ [codeAt 0x100]))
      (fun s => s.pc == 0x102 && s.flags == ⟨true, false, false, true⟩) = true := by decide

/-- 95_test_vectors 2.4: `R0 & R1`. -/
theorem test_tst :
    nextIs (step (start 0x100 [0x4208] [] [(0, 0xF), (1, 0xF0)] ⟨true, false, false, false⟩ [codeAt 0x100]))
      (fun s => s.pc == 0x102 && s.flags == ⟨false, true, false, false⟩) = true := by decide

/-- 95_test_vectors 2.5: `GOTO -1024`. -/
theorem test_gotoImm :
    nextIs (step (start 0x1000 [0xE400] [] [] ⟨false, false, false, false⟩ [codeAt 0x1000]))
      (fun s => s.pc == 0x804 && s.flags == ⟨false, false, false, false⟩) = true := by decide

/-- 95_test_vectors 2.5: `IF CS GOTO 3`. -/
theorem test_ifCond :
    nextIs (step (start 0x100 [0xD203] [] [] ⟨false, false, false, false⟩ [codeAt 0x100]))
      (fun s => s.pc == 0x102 && s.flags == ⟨false, false, false, false⟩) = true := by decide

/-- 95_test_vectors 2.5: `IF LE GOTO -128`. -/
theorem test_ifCond_second :
    nextIs (step (start 0x200 [0xDD80] [] [] ⟨true, false, false, false⟩ [codeAt 0x200]))
      (fun s => s.pc == 0x104 && s.flags == ⟨true, false, false, false⟩) = true := by decide

/-- 95_test_vectors 2.5: `IF 0 GOTO -2`. -/
theorem test_ifZero :
    nextIs (step (start 0x100 [0xD0FE] [] [] ⟨false, true, false, false⟩ [codeAt 0x100]))
      (fun s => s.pc == 0x100 && s.flags == ⟨false, true, false, false⟩) = true := by decide

/-- 95_test_vectors 2.5: `IF !0 GOTO -3`. -/
theorem test_ifNonZero :
    nextIs (step (start 0x100 [0xD1FD] [] [] ⟨false, true, false, false⟩ [codeAt 0x100]))
      (fun s => s.pc == 0x102 && s.flags == ⟨false, true, false, false⟩) = true := by decide

/-- 95_test_vectors 2.5: `GOTO R3`. -/
theorem test_gotoReg :
    nextIs (step (start 0x100 [0x4718] [] [(3, 0x201)] ⟨false, false, false, false⟩ [codeAt 0x100]))
      (fun s => s.pc == 0x200 && s.flags == ⟨false, false, false, false⟩) = true := by decide

/-- 95_test_vectors 2.5: `GOTO R3`. -/
theorem test_gotoReg_second :
    trapOf (step (start 0x100 [0x4718] [] [(3, 0x200)] ⟨false, false, false, false⟩ [codeAt 0x100])) =
      some ("InvalidState", 0x200, 0x100) := by decide

/-- 95_test_vectors 2.5: `GOSUB LR`. -/
theorem test_gosubReg :
    nextIs (step (start 0x100 [0x47F0] [] [(14, 0x401)] ⟨false, false, false, false⟩ [codeAt 0x100]))
      (fun s => s.reg 14 == 0x103 && s.pc == 0x400 && s.flags == ⟨false, false, false, false⟩) = true := by decide

/-- 95_test_vectors 2.5: `GOSUB R3`. -/
theorem test_gosubReg_second :
    trapOf (step (start 0x100 [0x4798] [] [(3, 0x200), (14, 0x55)] ⟨false, false, false, false⟩ [codeAt 0x100])) =
      some ("InvalidState", 0x200, 0x100) := by decide

/-- 95_test_vectors 2.5: `GOSUB -2`. -/
theorem test_gosubImm :
    nextIs (step (start 0x100 [0xF7FF, 0xFFFE] [] [] ⟨false, false, false, false⟩ [codeAt 0x100]))
      (fun s => s.reg 14 == 0x105 && s.pc == 0x100 && s.flags == ⟨false, false, false, false⟩) = true := by decide

/-- 95_test_vectors 2.5: `RET`. -/
theorem test_ret :
    nextIs (step (start 0x100 [0x4770] [] [(14, 0x105)] ⟨false, false, false, false⟩ [codeAt 0x100]))
      (fun s => s.reg 14 == 0x105 && s.pc == 0x104 && s.flags == ⟨false, false, false, false⟩) = true := by decide

/-- 95_test_vectors 2.6: `PUSH (R4,LR)`. -/
theorem test_push :
    nextIs (step (start 0x100 [0xB510] [(0x10000FF8, 0x11111111), (0x10000FFC, 0x22222222)] [(13, 0x10001000), (4, 0x44444444), (14, 0x105)] ⟨false, false, false, false⟩ [dataAt 0x10000F00 0x100, codeAt 0x100]))
      (fun s => s.reg 13 == 0x10000FF8 && s.mem.load 0x10000FF8 4 == 0x44444444 && s.mem.load 0x10000FFC 4 == 0x00000105 && s.pc == 0x102 && s.flags == ⟨false, false, false, false⟩) = true := by decide

/-- 95_test_vectors 2.6: `PUSH ()`. -/
theorem test_push_second :
    isRefused (step (start 0x100 [0xB400] [(0x10000FF8, 0x11111111), (0x10000FFC, 0x22222222)] [(13, 0x10001000)] ⟨false, false, false, false⟩ [dataAt 0x10000F00 0x100, codeAt 0x100])) = true := by decide

/-- 95_test_vectors 2.6: `POP (R4,PC)`. -/
theorem test_pop :
    nextIs (step (start 0x100 [0xBD10] [(0x10000FF8, 0x44444444), (0x10000FFC, 0x105)] [(13, 0x10000FF8)] ⟨false, false, false, false⟩ [dataAt 0x10000F00 0x100, codeAt 0x100]))
      (fun s => s.reg 4 == 0x44444444 && s.reg 13 == 0x10001000 && s.pc == 0x104 && s.flags == ⟨false, false, false, false⟩) = true := by decide

/-- 95_test_vectors 2.6: `POP (R4,PC) even`. -/
theorem test_pop_second :
    trapOf (step (start 0x100 [0xBD10] [(0x10000FF8, 0x44444444), (0x10000FFC, 0x104)] [(13, 0x10000FF8), (4, 0x7)] ⟨false, false, false, false⟩ [dataAt 0x10000F00 0x100, codeAt 0x100])) =
      some ("InvalidState", 0x104, 0x100) := by decide

/-- 95_test_vectors 2.6: `SP += 127`. -/
theorem test_spAdd :
    nextIs (step (start 0x100 [0xB07F] [(0x10000FF8, 0x11111111), (0x10000FFC, 0x22222222)] [(13, 0x10000000)] ⟨false, false, false, false⟩ [dataAt 0x10000F00 0x100, codeAt 0x100]))
      (fun s => s.reg 13 == 0x100001FC && s.pc == 0x102 && s.flags == ⟨false, false, false, false⟩) = true := by decide

/-- 95_test_vectors 2.6: `SP -= 1 (wrap)`. -/
theorem test_spSub :
    nextIs (step (start 0x100 [0xB081] [(0x10000FF8, 0x11111111), (0x10000FFC, 0x22222222)] [(13, 0x0)] ⟨false, false, false, false⟩ [dataAt 0x10000F00 0x100, codeAt 0x100]))
      (fun s => s.reg 13 == 0xFFFFFFFC && s.pc == 0x102 && s.flags == ⟨false, false, false, false⟩) = true := by decide

/-- 95_test_vectors 2.6: `R0 = SP + 255`. -/
theorem test_addSp :
    nextIs (step (start 0x100 [0xA8FF] [(0x10000FF8, 0x11111111), (0x10000FFC, 0x22222222)] [(13, 0x10000000)] ⟨false, false, false, false⟩ [dataAt 0x10000F00 0x100, codeAt 0x100]))
      (fun s => s.reg 0 == 0x100003FC && s.pc == 0x102 && s.flags == ⟨false, false, false, false⟩) = true := by decide

/-- 95_test_vectors 2.6: `R0 = [SP + 1]L`. -/
theorem test_ldrSp :
    nextIs (step (start 0x100 [0x9801] [(0x10000FF8, 0x11111111), (0x10000FFC, 0x22222222)] [(13, 0x10000FF8)] ⟨false, false, false, false⟩ [dataAt 0x10000F00 0x100, codeAt 0x100]))
      (fun s => s.reg 0 == 0x22222222 && s.pc == 0x102 && s.flags == ⟨false, false, false, false⟩) = true := by decide

/-- 95_test_vectors 2.6: `[SP + 1]L = R0`. -/
theorem test_strSp :
    nextIs (step (start 0x100 [0x9001] [(0x10000FF8, 0x11111111), (0x10000FFC, 0x22222222)] [(13, 0x10000FF8), (0, 0xCAFEBABE)] ⟨false, false, false, false⟩ [dataAt 0x10000F00 0x100, codeAt 0x100]))
      (fun s => s.mem.load 0x10000FF8 4 == 0x11111111 && s.mem.load 0x10000FFC 4 == 0xCAFEBABE && s.pc == 0x102 && s.flags == ⟨false, false, false, false⟩) = true := by decide

/-- 95_test_vectors 2.7: `R0 = REV(R1)`. -/
theorem test_rev :
    nextIs (step (start 0x100 [0xBA08] [] [(1, 0x11223344)] ⟨false, false, false, false⟩ [codeAt 0x100]))
      (fun s => s.reg 0 == 0x44332211 && s.pc == 0x102 && s.flags == ⟨false, false, false, false⟩) = true := by decide

/-- 95_test_vectors 2.7: `R0 = REV16(R1)`. -/
theorem test_rev16 :
    nextIs (step (start 0x100 [0xBA48] [] [(1, 0x11223344)] ⟨false, false, false, false⟩ [codeAt 0x100]))
      (fun s => s.reg 0 == 0x22114433 && s.pc == 0x102 && s.flags == ⟨false, false, false, false⟩) = true := by decide

/-- 95_test_vectors 2.7: `R0 = REVSH(R1)`. -/
theorem test_revsh :
    nextIs (step (start 0x100 [0xBAC8] [] [(1, 0x11223344)] ⟨false, false, false, false⟩ [codeAt 0x100]))
      (fun s => s.reg 0 == 0x4433 && s.pc == 0x102 && s.flags == ⟨false, false, false, false⟩) = true := by decide

/-- 95_test_vectors 2.7: `R1 = ASR(R0, 2)`. -/
theorem test_asrImm :
    nextIs (step (start 0x100 [0x1081] [] [(0, 0x80000006)] ⟨false, false, false, true⟩ [codeAt 0x100]))
      (fun s => s.reg 1 == 0xE0000001 && s.pc == 0x102 && s.flags == ⟨true, false, true, true⟩) = true := by decide

/-- 95_test_vectors 2.7: `R1 = ASR(R0, [field 0]), amount32`. -/
theorem test_asrImm_second :
    nextIs (step (start 0x100 [0x1001] [] [(0, 0x80000000)] ⟨false, false, false, false⟩ [codeAt 0x100]))
      (fun s => s.reg 1 == 0xFFFFFFFF && s.pc == 0x102 && s.flags == ⟨true, false, true, false⟩) = true := by decide

/-- 95_test_vectors 2.7: `ASR R0, R1`. -/
theorem test_asrReg :
    nextIs (step (start 0x100 [0x4108] [] [(0, 0x7FFFFFFF), (1, 0xFF)] ⟨false, false, true, false⟩ [codeAt 0x100]))
      (fun s => s.reg 0 == 0x0 && s.pc == 0x102 && s.flags == ⟨false, true, false, false⟩) = true := by decide

/-- 95_test_vectors 2.7: `BIC R0, R1`. -/
theorem test_bic :
    nextIs (step (start 0x100 [0x4388] [] [(0, 0xFFFF00FF), (1, 0xFFFF)] ⟨false, false, true, true⟩ [codeAt 0x100]))
      (fun s => s.reg 0 == 0xFFFF0000 && s.pc == 0x102 && s.flags == ⟨true, false, true, true⟩) = true := by decide

/-- 95_test_vectors 2.7: `ROR R0, R1`. -/
theorem test_ror :
    nextIs (step (start 0x100 [0x41C8] [] [(0, 0x80000001), (1, 0x20)] ⟨false, false, false, false⟩ [codeAt 0x100]))
      (fun s => s.reg 0 == 0x80000001 && s.pc == 0x102 && s.flags == ⟨true, false, true, false⟩) = true := by decide

/-- 95_test_vectors 2.7: `ADC R0, R1`. -/
theorem test_adc :
    nextIs (step (start 0x100 [0x4148] [] [(0, 0x1), (1, 0x2)] ⟨false, false, false, false⟩ [codeAt 0x100]))
      (fun s => s.reg 0 == 0x3 && s.pc == 0x102 && s.flags == ⟨false, false, false, false⟩) = true := by decide

/-- 95_test_vectors 2.7: `SBC R0, R1`. -/
theorem test_sbc :
    nextIs (step (start 0x100 [0x4188] [] [(0, 0x5), (1, 0x4)] ⟨false, false, false, false⟩ [codeAt 0x100]))
      (fun s => s.reg 0 == 0x0 && s.pc == 0x102 && s.flags == ⟨false, true, true, false⟩) = true := by decide

/-- 95_test_vectors 2.8: `LDM R0,(R0,R1)`. -/
theorem test_ldm :
    nextIs (step (start 0x100 [0xC803] [(0x10000100, 0xAAAAAAAA), (0x10000104, 0xBBBBBBBB)] [(0, 0x10000100)] ⟨false, false, false, false⟩ [dataAt 0x10000100 0x8, codeAt 0x100]))
      (fun s => s.reg 0 == 0xAAAAAAAA && s.reg 1 == 0xBBBBBBBB && s.pc == 0x102 && s.flags == ⟨false, false, false, false⟩) = true := by decide

/-- 95_test_vectors 2.8: `LDM R1,(R0,R1)`. -/
theorem test_ldm_second :
    nextIs (step (start 0x100 [0xC903] [(0x10000100, 0xAAAAAAAA), (0x10000104, 0xBBBBBBBB)] [(1, 0x10000100)] ⟨false, false, false, false⟩ [dataAt 0x10000100 0x8, codeAt 0x100]))
      (fun s => s.reg 0 == 0xAAAAAAAA && s.reg 1 == 0xBBBBBBBB && s.pc == 0x102 && s.flags == ⟨false, false, false, false⟩) = true := by decide

/-- 95_test_vectors 2.8: `STM R0,(R0,R1)`. -/
theorem test_stm :
    nextIs (step (start 0x100 [0xC003] [(0x10000100, 0xAAAAAAAA), (0x10000104, 0xBBBBBBBB)] [(0, 0x10000100), (1, 0x11111111)] ⟨false, false, false, false⟩ [dataAt 0x10000100 0x8, codeAt 0x100]))
      (fun s => s.reg 0 == 0x10000108 && s.mem.load 0x10000100 4 == 0x10000100 && s.mem.load 0x10000104 4 == 0x11111111 && s.pc == 0x102 && s.flags == ⟨false, false, false, false⟩) = true := by decide

/-- 95_test_vectors 2.8: `STM R1,(R0,R1)`. -/
theorem test_stm_second :
    isRefused (step (start 0x100 [0xC103] [(0x10000100, 0xAAAAAAAA), (0x10000104, 0xBBBBBBBB)] [(1, 0x10000100), (0, 0x11111111)] ⟨false, false, false, false⟩ [dataAt 0x10000100 0x8, codeAt 0x100])) = true := by decide

/-- 95_test_vectors 2.9: `NOP`. -/
theorem test_nop :
    nextIs (step (start 0x100 [0x0] [] [(0, 0x80000000)] ⟨false, true, true, true⟩ [codeAt 0x100]))
      (fun s => s.reg 0 == 0x80000000 && s.pc == 0x102 && s.flags == ⟨true, false, true, true⟩) = true := by decide

/-- 95_test_vectors 2.9: `CPSID`. -/
theorem test_cpsid :
    nextIs (step (start 0x100 [0xB672] [] [] ⟨false, false, false, false⟩ [codeAt 0x100]))
      (fun s => s.pc == 0x102 && s.pm == true && s.flags == ⟨false, false, false, false⟩) = true := by decide

/-- 95_test_vectors 2.9: `CPSIE`. -/
theorem test_cpsie :
    nextIs (step (start 0x100 [0xB662] [] [] ⟨false, false, false, false⟩ [codeAt 0x100] (pm := true)))
      (fun s => s.pc == 0x102 && s.pm == false && s.flags == ⟨false, false, false, false⟩) = true := by decide

/-- 95_test_vectors 2.9: `WFI`. -/
theorem test_wfi :
    nextIs (step (start 0x100 [0xBF30] [] [] ⟨false, false, false, false⟩ [codeAt 0x100]))
      (fun s => s.waiting == some .wfi && s.pc == 0x100) = true := by decide

/-- 95_test_vectors 2.9: `BKPT 171`. -/
theorem test_bkpt :
    trapOf (step (start 0x100 [0xBEAB] [] [] ⟨false, false, false, false⟩ [codeAt 0x100])) =
      some ("Breakpoint", 0xAB, 0x100) := by decide

/-- 95_test_vectors 2.9: `SVC 255`. -/
theorem test_svc :
    trapOf (step (start 0x100 [0xDFFF] [] [] ⟨false, false, false, false⟩ [codeAt 0x100])) =
      some ("SVCall", 0xFF, 0x102) := by decide

/-- 95_test_vectors 2.5: `F000 then`. -/
theorem test_unassigned :
    trapOf (step (start 0x100 [0xF000, 0x0] [] [] ⟨false, false, false, false⟩ [codeAt 0x100])) =
      some ("UndefinedInstruction", 0xF0000000, 0x100) := by decide

/-- 95_test_vectors 2.7: `0xBA88`. -/
theorem test_unassigned_second :
    trapOf (step (start 0x100 [0xBA88] [] [(1, 0x0)] ⟨false, false, false, false⟩ [codeAt 0x100])) =
      some ("UndefinedInstruction", 0xBA880000, 0x100) := by decide

/-! ### The group of R97, and exceptions, by the rules -/

/-- The state after one instruction. -/
def after (i : Instr) (s : State) : Option State :=
  match exec i s with
  | .next t => some t
  | _ => none

/-- A state in Thread mode that takes exceptions, its stack at 0x20001000. -/
def armed : State := { State.reset with pc := 0x100, msp := 0x20001000, lr := 0x201 }

/-- The same with terminal traps. -/
def plain : State := { armed with cfg := { resetConfig with trapModel := .terminal } }

/-- The `SVC` handler of `armed`, its frame on the stack with `T` = 1 and stacked `pc` 0x102. -/
def handling : State :=
  { armed with
    mode := .handler, ipsr := 11, active := [11], lr := 0xFFFFFFF9, msp := 0x20000FE0
    mem := (Memory.store [] 0x20000FF8 4 0x102).store 0x20000FFC 4 0x61000000 }

/-- R265: 0x80 extends to 0xFFFFFF80. -/
theorem test_sxtb : (after (.sxtb 0 1) (plain.setLo 1 0x12345680)).map (·.lo 0) = some 0xFFFFFF80 := by decide

/-- R266: 0x8000 extends to 0xFFFF8000. -/
theorem test_sxth : (after (.sxth 0 1) (plain.setLo 1 0x12348000)).map (·.lo 0) = some 0xFFFF8000 := by decide

/-- R267. -/
theorem test_uxtb : (after (.uxtb 0 1) (plain.setLo 1 0x12345680)).map (·.lo 0) = some 0x80 := by decide

/-- R268. -/
theorem test_uxth : (after (.uxth 0 1) (plain.setLo 1 0x12348000)).map (·.lo 0) = some 0x8000 := by decide

/-- R35, R272: `XPSR` reads the flags and the exception number, not `T`. -/
theorem test_mrs :
    (after (.mrs 8 3) { handling with flags := ⟨true, false, true, false⟩ }).map (fun t => (t.reg 8, t.pc)) =
      some (0xA000000B, 0x104) := by decide

/-- R40: number 4 is reserved. -/
theorem test_mrs_second : isRefused (exec (.mrs 0 4) plain) = true := by decide

/-- R36, R38: `CONTROL` 2 in Thread mode chooses `PSP`. -/
theorem test_msr :
    (after (.msr 0 20) ({ plain with psp := 0x20000800 }.setLo 0 3)).map (fun t => (t.sp, t.spsel)) =
      some (0x20000800, true) := by decide

/-- R24, R36: `PSP` keeps its bits [1:0] at 0. -/
theorem test_msr_second :
    (after (.msr 0 9) (plain.setLo 0 0x20000803)).map (·.psp) = some 0x20000800 := by decide

/-- R67, R271. -/
theorem test_isb : (after (.isb 15) { plain with dirty := [0x104] }).map (fun t => (t.dirty, t.pc)) =
    some ([], 0x104) := by decide

theorem test_dmb : (after (.dmb 15) plain).map (·.pc) = some 0x104 := by decide

theorem test_dsb : (after (.dsb 15) plain).map (·.pc) = some 0x104 := by decide

/-- R274, R275: `SEV` sets what `WFE` clears. -/
theorem test_sev : ((after .sev plain).bind (after .wfe)).map (fun t => (t.eventReg, t.waiting, t.pc)) =
    some (false, none, 0x104) := by decide

/-- R275: without an event `WFE` holds. -/
theorem test_wfe : (after .wfe plain).map (fun t => (t.waiting, t.pc)) = some (some .wfe, 0x100) := by decide

/-- R41, R275: the event that ends a hold stays in the event register. -/
theorem test_wfe_event :
    nextIs (step { plain with waiting := some .wfe, env := [[.event]] })
      (fun t => t.waiting == none && t.eventReg && t.pc == 0x102) = true := by decide

theorem test_yieldHint : (after .yieldHint plain).map (·.pc) = some 0x102 := by decide

/-- R309: `SVC` stacks the return address and `xPSR`, and goes to the vector of exception 11. -/
theorem test_svc_entry :
    (after (.svc 1) { armed with flags := ⟨false, true, true, false⟩, mem := Memory.store [] 0x2C 4 0x301 }).map
      (fun t => (t.pc, t.msp, t.lr, t.ipsr, t.mem.load 0x20000FF8 4, t.mem.load 0x20000FFC 4)) =
      some (0x300, 0x20000FE0, 0xFFFFFFF9, 11, 0x102, 0x61000000) := by decide

/-- R306, R309: `BKPT` becomes a HardFault with its own address stacked. -/
theorem test_bkpt_hardFault :
    (after (.bkpt 0) { armed with mem := Memory.store [] 0x0C 4 0x401 }).map
      (fun t => (t.pc, t.ipsr, t.mem.load 0x20000FF8 4)) = some (0x400, 3, 0x100) := by decide

/-- R311: `RET` with 0xFFFFFFF9 goes back to Thread mode. -/
theorem test_ret_exception :
    nextIs (exec .ret handling) (fun t => t.pc == 0x102 && t.msp == 0x20001000 && t.mode == .thread && t.ipsr == 0 &&
      t.flags == ⟨false, true, true, false⟩ && t.active == []) = true := by decide

/-- R308: an enabled interrupt that is pending is taken before the next instruction. -/
theorem test_irq_taken :
    nextIs (step { armed with scs := { Scs.reset with irqEnable := 4, irqPending := 4 }, mem := Memory.store [] 0x48 4 0x501 })
      (fun t => t.pc == 0x500 && t.ipsr == 18 && t.scs.irqPending == 0 && t.mem.load 0x20000FF8 4 == 0x100) = true := by
  decide

/-- R41, R300, R301: the inputs of a boundary; the wake-up of the one before is gone. -/
theorem test_inputs :
    (let b := State.boundary { armed with env := [[.irq 31, .nmi, .event], [.reset]], wakeUp := true }
     (b.scs.irqPending, b.scs.nmiPending, b.eventReg, b.wakeUp, b.env)) =
      (0x80000000, true, true, false, [[.reset]]) := by decide

/-- R37, R308: `PM` = 1 keeps it pending. -/
theorem test_irq_masked :
    nextIs (step { armed with scs := { Scs.reset with irqEnable := 4, irqPending := 4 }, pm := true })
      (fun t => t.pc == 0x102 && t.mode == .thread && t.scs.irqPending == 4) = true := by decide

/-- R332: the stack pointer and `pc` of a reset are the first two words. -/
theorem test_reset :
    nextIs (step { armed with env := [[.reset]], mem := (Memory.store [] 0 4 0x20002003).store 4 4 0x601 })
      (fun t => t.msp == 0x20002000 && t.pc == 0x600 && t.epsrT && t.mode == .thread) = true := by decide

/-- R306: at priority -1 a fault is Lockup. -/
theorem test_lockup :
    (after (.bkpt 0) { handling with active := [3], ipsr := 3 }).map (fun t => (t.lockup, t.pc)) =
      some (true, 0x100) := by decide

/-- R332: `T` = 0 after a reset is a HardFault, and from there Lockup. -/
theorem test_thumbClear :
    nextIs (step { armed with epsrT := false }) (fun t => t.lockup && t.ipsr == 3 && t.mode == .handler) = true := by
  decide

/-- R57: a fetch needs its address to be readable too. -/
theorem test_fetch_unreadable :
    trapOf (step (start 0x100 [0x2300] [] [] ⟨false, false, false, false⟩ [⟨0x100, 64, false, false, true, .plain⟩])) =
      some ("BusFault", 0x100, 0x100) := by decide

/-- Memory that is plain below 0x20000002 and a device from there up, `x[0]` 0x44332211 and `x[1]` 0x20000000. -/
def sharing : State :=
  { (armed.setLo 0 0x44332211).setLo 1 0x20000000 with
    cfg := { resetConfig with
      memMap := [⟨0, 0x20000002, true, true, true, .plain⟩, ⟨0x20000002, 0x10000000, true, true, false, .device⟩] } }

/-- R55, R60, R67: a store that a device sees sets those of its bytes that are plain memory, and marks them all. -/
theorem test_store_mixed :
    (after (.strImm 0 1 0) sharing).map (fun t => (t.mem.load 0x20000000 4, t.dirty, t.deviceLog.length)) =
      some (0x2211, [0x20000000, 0x20000001, 0x20000002, 0x20000003], 1) := by decide

/-- A table word runs as the first instruction after reset. -/
theorem test_withFetchWord :
    nextIs (step (State.reset.withFetchWord 32 0xF000F900)) (fun t => t.pc == 0x204 && t.lr == 5) = true := by decide

/-! ### States that meet the hypotheses of the statements -/

/-- What the statements assume of a state in which a trap becomes a HardFault. -/
def HardFaultPremises (s : State) : Prop := s.cfg.trapModel = .armv6m ∧ -1 < s.execPriority ∧ EntryPossible s 3

theorem witness_BecomesHardFault : HardFaultPremises armed := by
  unfold HardFaultPremises EntryPossible plainWords
  decide

theorem witness_DecodingInvertsEncoding :
    (Instr.ifCond 14 0x80).wellFormed = true ∧ (Instr.lslImm 0 0 1).wellFormed = true ∧
      (Instr.msr 14 20).wellFormed = true := by decide

theorem witness_EncodingInvertsDecoding :
    decode 0xDFFF (some 0xFFFF) = .ok (.svc 0xFF) ∧ decode 0xF38E (some 0x8814) = .ok (.msr 14 20) := by decide

/-- A halfword with no instruction at `pc`. -/
def unknown16 : State := { armed with mem := Memory.store [] 0x100 2 0xB100 }

/-- A pair with no instruction at `pc`. -/
def unknown32 : State := { plain with mem := Memory.store [] 0x100 4 0xF7FFF000 }

theorem witness_UnassignedEncodingsAreThoseOfTheTable :
    (isWide 0xB100 = false ∧ isWide 0xF7FF = true) ∧
    (unknown16.epsrT = true ∧ fetchInstr unknown16 = .ok 0xB100 none unknown16 ∧
      unknown16.instrOf 0xB100 none = none ∧ HardFaultPremises unknown16) ∧
    (unknown32.epsrT = true ∧ fetchInstr unknown32 = .ok 0xF000 (some 0xF7FF) unknown32 ∧
      unknown32.instrOf 0xF000 (some 0xF7FF) = none ∧ unknown32.cfg.trapModel = .terminal) := by
  unfold HardFaultPremises EntryPossible plainWords
  decide

/-- `GOSUB 256` at `pc`. -/
def calls : State := { armed with mem := Memory.store [] 0x100 4 0xF900F000 }

theorem witness_StepRunsTheDecodedInstruction :
    (calls.boundary.runsNext ∧ (Instr.gosubImm 0x100).wellFormed = true ∧
      calls.boundary.cfg.admits (.gosubImm 0x100) = true ∧ clearBit0 calls.boundary.pc = calls.boundary.pc ∧
      (∀ k b, (encodeBytes (.gosubImm 0x100))[k]? = some b →
        byteAt calls.boundary (calls.boundary.pc + BitVec.ofNat 32 k) = b ∧
        (calls.boundary.pc + BitVec.ofNat 32 k).toNat ∉ calls.boundary.dirty) ∧
      (∀ k < (encode (.gosubImm 0x100)).length,
        calls.boundary.accessClass .fetch (calls.boundary.pc + BitVec.ofNat 32 (2 * k)) .half = some .plain)) ∧
    calls.quiet := by
  refine ⟨⟨by unfold State.runsNext; decide, by decide, by decide, by decide, ?_, by decide⟩, by unfold State.quiet; decide⟩
  intro k b h
  have hk : k < 4 := (List.getElem?_eq_some_iff.1 h).1
  have hb : ∀ k < 4, ∀ b, (encodeBytes (.gosubImm 0x100))[k]? = some b →
      byteAt calls.boundary (calls.boundary.pc + BitVec.ofNat 32 k) = b ∧
        (calls.boundary.pc + BitVec.ofNat 32 k).toNat ∉ calls.boundary.dirty := by
    intro k hk b h
    have : (encodeBytes (.gosubImm 0x100))[k]? = some (byteAt calls.boundary (calls.boundary.pc + BitVec.ofNat 32 k)) ∧
        (calls.boundary.pc + BitVec.ofNat 32 k).toNat ∉ calls.boundary.dirty := by
      clear h
      revert k
      decide
    exact ⟨Option.some.inj (this.1.symm.trans h), this.2⟩
  exact hb k hk b h

/-- A state whose map has executable plain memory below an address, and no other. -/
def codeBelow (s : State) (a : Nat) : State :=
  { s with cfg := { s.cfg with memMap := [⟨0, a, true, true, true, .plain⟩, dataAt a (0x30000000 - a)] } }

/-- `calls` at its boundary where no fetch is admitted. -/
def noFirst : State := (codeBelow calls 0x100).boundary

/-- `calls` at its boundary where the second halfword's fetch is not admitted. -/
def noSecond : State := (codeBelow calls 0x102).boundary

/-- `calls` at its boundary with a byte of its first halfword stored by the program. -/
def stored : State := State.boundary { calls with dirty := [0x101] }

/-- `calls` at its boundary with a byte of its second halfword stored by the program. -/
def storedSecond : State := State.boundary { calls with dirty := [0x102] }

theorem witness_StepRunsTheDecodedInstruction_fetch :
    (noFirst.runsNext ∧ clearBit0 noFirst.pc = noFirst.pc ∧ noFirst.accessClass .fetch noFirst.pc .half = none ∧
      HardFaultPremises noFirst) ∧
    (noSecond.runsNext ∧ noSecond.accessClass .fetch noSecond.pc .half = some .plain ∧
      isWide (halfAt noSecond noSecond.pc) = true ∧ noSecond.pc.toNat ∉ noSecond.dirty ∧
      (noSecond.pc + 1).toNat ∉ noSecond.dirty ∧ noSecond.accessClass .fetch (noSecond.pc + 2) .half = none ∧
      HardFaultPremises noSecond) ∧
    (stored.runsNext ∧ stored.accessClass .fetch stored.pc .half = some .plain ∧ (stored.pc + 1).toNat ∈ stored.dirty) ∧
    (storedSecond.runsNext ∧ storedSecond.accessClass .fetch storedSecond.pc .half = some .plain ∧
      storedSecond.pc.toNat ∉ storedSecond.dirty ∧ (storedSecond.pc + 1).toNat ∉ storedSecond.dirty ∧
      isWide (halfAt storedSecond storedSecond.pc) = true ∧
      storedSecond.accessClass .fetch (storedSecond.pc + 2) .half = some .plain ∧
      (storedSecond.pc + 2).toNat ∈ storedSecond.dirty) := by
  unfold State.runsNext HardFaultPremises EntryPossible plainWords
  refine ⟨?_, ?_, ?_, ?_⟩ <;> decide

theorem witness_EveryStepKeepsTheInvariant : calls.Inv ∧ ∃ t, step calls = .next t :=
  ⟨by unfold State.Inv; decide, _, rfl⟩

theorem witness_ResetLoadsTheVectorTable :
    (State.boundary { armed with env := [[.reset]] }).scs.resetRequest = true ∧
      armed.accessClass .read 0 .word = some .plain ∧ armed.accessClass .read 4 .word = some .plain := by decide

/-- An access that is aligned and in plain memory. -/
def inPlain (s : State) (kind : AccessKind) (a : Word) (size : Size) : Prop :=
  a.toNat % size.bytes = 0 ∧ s.accessClass kind a size = some .plain

theorem witness_ReadsAreLittleEndian :
    inPlain armed .read 0xFFFFFFFC .word ∧ inPlain armed .fetch 0xDFFFFFFE .half ∧
      inPlain armed .read 0xFFFFFFFF .byte := by
  unfold inPlain
  decide

theorem witness_WritesSetTheirBytesAndNoOther :
    inPlain armed .write 0xFFFFFFFC .word ∧ inPlain armed .write 0 .half ∧ inPlain armed .write 0xFFFFFFFF .byte ∧
      ((0x20000000 : Word).toNat % Size.word.bytes = 0 ∧ sharing.accessClass .write 0x20000000 .word = some .device ∧
        byteClass sharing.cfg .write 0x20000001 = some .plain ∧
        byteClass sharing.cfg .write 0x20000002 = some .device) := by
  unfold inPlain
  decide

theorem witness_MemoryHasOneFormForEachContent :
    (Memory.wf [(0, 1), (0xFFFFFFFF, 255)] = true ∧ 0xFFFFFFFF < 2 ^ 32) ∧
      ∀ a, Memory.read [(0, 1)] a = Memory.read [(0, 1)] a := ⟨by decide, fun _ => rfl⟩

theorem witness_MisalignedAccessesAreNotPerformed :
    (0x20000001 : Word).toNat % Size.half.bytes ≠ 0 ∧ (0x20000002 : Word).toNat % Size.word.bytes ≠ 0 := by decide

theorem witness_MoveRegisterCopies : (14 : BitVec 4) ≠ 15 ∧ (12 : BitVec 4).toNat < 13 := by decide

theorem witness_ShiftHelpersFollowArithmetic : 1 ≤ 1 ∧ 1 ≤ 33 := by decide

theorem witness_RightShiftsByImmediate :
    (31 : BitVec 5) ≠ 0 ∧ armed.cfg.immShift0 = .amount32 ∧
      (State.cfg { armed with cfg := { resetConfig with immShift0 := .amount0 } }).immShift0 = .amount0 ∧
      (State.cfg { armed with cfg := { resetConfig with immShift0 := .unset } }).immShift0 = .unset := by decide

theorem witness_HighRegisterAddition : (14 : BitVec 4) ≠ 15 ∧ (0 : BitVec 4) ≠ 15 := by decide

theorem witness_ComparesWriteOnlyFlags :
    ((15 : BitVec 4) = 15 ∨ (0 : BitVec 4) = 15) ∧ (7 : BitVec 4).toNat < 8 ∧
      ((8 : BitVec 4) ≠ 15 ∧ (14 : BitVec 4) ≠ 15 ∧ (8 ≤ (8 : BitVec 4).toNat ∨ 8 ≤ (14 : BitVec 4).toNat)) := by decide

/-- Registers that address plain memory: `x[1]` the base, `x[2]` the index. -/
def addressing : State := (armed.setLo 1 0x20000000).setLo 2 0x7FC

theorem witness_LoadsReadPlainMemory :
    inPlain addressing .read (addressing.addrImm 1 31 1) .byte ∧
      inPlain addressing .read (addressing.addrImm 1 31 2) .half ∧
      inPlain addressing .read (addressing.addrImm 1 31 4) .word ∧ inPlain addressing .read (addressing.addrPc 255) .word ∧
      inPlain addressing .read (addressing.addrReg 1 2) .byte ∧ inPlain addressing .read (addressing.addrReg 1 2) .half ∧
      inPlain addressing .read (addressing.addrReg 1 2) .word ∧ inPlain addressing .read (addressing.addrSp 255) .word := by
  unfold inPlain
  decide

theorem witness_StoresWritePlainMemory :
    inPlain addressing .write (addressing.addrImm 1 31 1) .byte ∧
      inPlain addressing .write (addressing.addrImm 1 31 2) .half ∧
      inPlain addressing .write (addressing.addrImm 1 31 4) .word ∧
      inPlain addressing .write (addressing.addrReg 1 2) .byte ∧ inPlain addressing .write (addressing.addrReg 1 2) .half ∧
      inPlain addressing .write (addressing.addrReg 1 2) .word ∧ inPlain addressing .write (addressing.addrSp 255) .word := by
  unfold inPlain
  decide

/-- A map that ends below 0x30000000, with `x[1]` outside it. -/
def outside : State :=
  State.setLo { armed with cfg := { resetConfig with memMap := [dataAt 0 0x30000000] } } 1 0x30000000

theorem witness_MisalignedAndUnadmittedAccessesTrap :
    (accessOf (addressing.setLo 1 0x20000003) (.strhImm 0 1 0) = some (.write, 0x20000003, .half) ∧
      (0x20000003 : Word).toNat % Size.half.bytes ≠ 0 ∧ HardFaultPremises (addressing.setLo 1 0x20000003)) ∧
    (accessOf outside (.ldrImm 0 1 0) = some (.read, 0x30000000, .word) ∧
      (0x30000000 : Word).toNat % Size.word.bytes = 0 ∧ outside.accessClass .read 0x30000000 .word = none ∧
      HardFaultPremises outside) ∧
    (accessOf plain (.ldrSp 0 0) = some (.read, 0x20001000, .word) ∧ plain.cfg.trapModel = .terminal) := by
  unfold HardFaultPremises EntryPossible plainWords
  decide

theorem witness_DeviceAndSystemAccesses :
    (accessOf (armed.setLo 1 0x5FFFFFFF) (.ldrbImm 0 1 0) = some (.read, 0x5FFFFFFF, .byte) ∧
      (armed.setLo 1 0x5FFFFFFF).accessClass .read 0x5FFFFFFF .byte = some .device) ∧
    (accessOf (armed.setLo 1 0x40000000) (.strImm 0 1 0) = some (.write, 0x40000000, .word) ∧
      (armed.setLo 1 0x40000000).accessClass .write 0x40000000 .word = some .device) ∧
    (accessOf (armed.setLo 1 0xE000ED20) (.ldrImm 0 1 0) = some (.read, 0xE000ED20, .word) ∧
      (armed.setLo 1 0xE000ED20).accessClass .read 0xE000ED20 .word = some .system ∧
      ((armed.setLo 1 0xE000ED20).readSystem 0xE000ED20).isSome = true) ∧
    (accessOf (armed.setLo 1 0xE000E010) (.strImm 0 1 0) = some (.write, 0xE000E010, .word) ∧
      (armed.setLo 1 0xE000E010).accessClass .write 0xE000E010 .word = some .system ∧
      ((armed.setLo 1 0xE000E010).writeSystem 0xE000E010 0).isSome = true) ∧
    (accessOf sharing (.ldrImm 0 1 0) = some (.read, 0x20000000, .word) ∧
      sharing.accessClass .read 0x20000000 .word = some .device ∧
      byteClass sharing.cfg .read 0x20000001 = some .plain) ∧
    (accessOf sharing (.strImm 0 1 0) = some (.write, 0x20000000, .word) ∧
      sharing.accessClass .write 0x20000000 .word = some .device ∧
      byteClass sharing.cfg .write 0x20000001 = some .plain) := by decide

theorem witness_OffsetBranchesReachTheirDestination : (14 : BitVec 4) ≠ 15 := by decide

theorem witness_RegisterBranchesReachOddTargets :
    (14 : BitVec 4) ≠ 15 ∧ (armed.reg 14).getLsbD 0 = true ∧ ordinaryTarget armed (armed.reg 14) ∧
      armed.lr.getLsbD 0 = true ∧ ordinaryTarget armed armed.lr := by
  unfold ordinaryTarget
  decide

/-- `armed` and `plain` with an even value in `LR`. -/
def evenLink (s : State) : State := { s with lr := 0x200 }

theorem witness_RegisterBranchesToEvenValuesTrap :
    (14 : BitVec 4) ≠ 15 ∧ ((evenLink armed).reg 14).getLsbD 0 = false ∧
      ordinaryTarget (evenLink armed) ((evenLink armed).reg 14) ∧ HardFaultPremises (evenLink armed) ∧
      (evenLink plain).lr.getLsbD 0 = false ∧ (evenLink plain).cfg.trapModel = .terminal ∧
      ordinaryTarget (evenLink plain) (evenLink plain).lr := by
  unfold ordinaryTarget HardFaultPremises EntryPossible plainWords
  decide

theorem witness_PushStoresTheListDownwards :
    (0x1FF : BitVec 9) ≠ 0 ∧ armed.sp &&& 3#32 = 0 ∧ plainWords armed .write (armed.sp - 36) 9 ∧
      plainWords armed .write (armed.sp - 4) 1 := by
  unfold plainWords
  decide

/-- The words of `POP {R0-R7, PC}`, the last of them odd. -/
def popping (last : Word) : State := { plain with mem := Memory.store [] 0x20001020 4 last }

theorem witness_PopLoadsTheListUpwards :
    ((0x1FF : BitVec 9) ≠ 0 ∧ (popping 0x301).sp &&& 3#32 = 0 ∧ plainWords (popping 0x301) .read (popping 0x301).sp 9) ∧
    (wordAt (popping 0x301) (wordUp (popping 0x301).sp 8)).getLsbD 0 = true ∧
    ordinaryTarget (popping 0x301) (wordAt (popping 0x301) (wordUp (popping 0x301).sp 8)) ∧
    (wordAt (popping 0x300) (wordUp (popping 0x300).sp 8)).getLsbD 0 = false ∧
    ordinaryTarget (popping 0x300) (wordAt (popping 0x300) (wordUp (popping 0x300).sp 8)) ∧
    (popping 0x300).cfg.trapModel = .terminal ∧ HardFaultPremises { popping 0x300 with cfg := resetConfig } := by
  unfold HardFaultPremises EntryPossible plainWords ordinaryTarget
  decide

theorem witness_PopUndoesPush :
    armed.sp &&& 3#32 = 0 ∧ plainWords armed .write (armed.sp - 36) 9 ∧ plainWords armed .read (armed.sp - 36) 9 ∧
      armed.lr.getLsbD 0 = true ∧ ordinaryTarget armed armed.lr ∧ ∃ t, exec (.push 0x1FF) armed = .next t :=
  ⟨by decide, by unfold plainWords; decide, by unfold plainWords; decide, by decide, by unfold ordinaryTarget; decide,
    _, rfl⟩

theorem witness_LoadMultipleFillsTheList :
    (0xFF : BitVec 8) ≠ 0 ∧ (addressing.lo 1).toNat % 4 = 0 ∧
      plainWords addressing .read (addressing.lo 1) (listCount 0xFF) := by
  unfold plainWords
  decide

theorem witness_StoreMultipleStoresTheList :
    (0xFE : BitVec 8) ≠ 0 ∧
      ((0xFE : BitVec 8).getLsbD (1 : BitVec 3).toNat = true →
        ∀ j < (1 : BitVec 3).toNat, (0xFE : BitVec 8).getLsbD j = false) ∧
      (addressing.lo 1).toNat % 4 = 0 ∧ plainWords addressing .write (addressing.lo 1) (listCount 0xFE) := by
  unfold plainWords
  decide

theorem witness_MultipleTransfersStop :
    ((0x03 : BitVec 8).getLsbD (1 : BitVec 3).toNat = true ∧ 0 < (1 : BitVec 3).toNat ∧
      (0x03 : BitVec 8).getLsbD 0 = true) ∧
    ((0x06 : BitVec 8) ≠ 0 ∧ ((plain.setLo 1 0x20000001).lo 1).toNat % 4 ≠ 0 ∧
      (plain.setLo 1 0x20000001).cfg.trapModel = .terminal ∧
      ((0x06 : BitVec 8).getLsbD (1 : BitVec 3).toNat = true →
        ∀ j < (1 : BitVec 3).toNat, (0x06 : BitVec 8).getLsbD j = false)) ∧
    HardFaultPremises (armed.setLo 1 0x20000001) := by
  unfold HardFaultPremises EntryPossible plainWords
  decide

/-- A state whose map ends at 0x20001004, with `x[1]` two words below the end. -/
def edge (s : State) : State :=
  { s.setLo 1 0x20000FFC with cfg := { s.cfg with memMap := [dataAt 0 0x20001004] } }

/-- A state whose map has the vectors and the 32 bytes below the stack pointer. -/
def shallow (s : State) : State :=
  { s with cfg := { s.cfg with memMap := [dataAt 0 0x100, dataAt 0x20000FE0 0x20] } }

theorem witness_MultipleTransfersStop_busFault :
    (((edge armed).lo 1).toNat % 4 = 0 ∧ blockedAt (edge armed) .read ((edge armed).lo 1) (listCount 0x0E) 2 ∧
      blockedAt (edge armed) .write ((edge armed).lo 1) (listCount 0x0E) 2 ∧
      ∀ j < (1 : BitVec 3).toNat, (0x0E : BitVec 8).getLsbD j = false) ∧
    ((edge armed).sp &&& 3#32 = 0 ∧ blockedAt (edge armed) .read (edge armed).sp 9 1) ∧
    ((shallow armed).sp &&& 3#32 = 0 ∧
      (shallow armed).accessClass .write (wordUp ((shallow armed).sp - 36) 0) .word = none ∧
      ∀ m < 9, (shallow armed).accessClass .write (wordUp ((shallow armed).sp - 36) m) .word = some .plain ∨
        (shallow armed).accessClass .write (wordUp ((shallow armed).sp - 36) m) .word = none) ∧
    HardFaultPremises (edge armed) ∧ HardFaultPremises (shallow armed) ∧ (edge plain).cfg.trapModel = .terminal ∧
    (shallow plain).cfg.trapModel = .terminal := by
  unfold HardFaultPremises EntryPossible blockedAt plainWords
  decide

theorem witness_WaitsHoldUntilWoken :
    (State.wakeUp { armed with wakeUp := true } = true ∧ armed.eventReg = false) ∧
    (armed.wakeUp = false ∧ armed.interruptWakes = false) ∧
    State.interruptWakes { armed with pm := true, scs := { Scs.reset with irqEnable := 1, irqPending := 1 } } = true ∧
    State.eventReg { armed with eventReg := true } = true ∧
    (armed.boundary.scs.resetRequest = false ∧ armed.boundary.lockup = false) ∧
    (State.boundary { armed with waiting := some .wfi }).waiting = some .wfi ∧
    (State.boundary { armed with waiting := some .wfe }).waiting = some .wfe ∧
    (State.boundary { armed with waiting := some .wfe, env := [[.event]] }).eventReg = true ∧
    (State.boundary { armed with waiting := some .wfi, env := [[.wakeUp]] }).wakeUp = true := by decide

theorem witness_SpecialRegisterReads :
    ((13 : BitVec 4) = 13 ∨ (13 : BitVec 4) = 15) ∧ (14 : BitVec 4) ≠ 13 ∧ (14 : BitVec 4) ≠ 15 ∧
      (specialContent armed 20).isSome = true ∧ specialContent armed 4 = none := by decide

theorem witness_SpecialRegisterWrites :
    ((15 : BitVec 4) = 13 ∨ (15 : BitVec 4) = 15) ∧ (0 : BitVec 4) ≠ 13 ∧ (0 : BitVec 4) ≠ 15 ∧
      (specialWritten armed 3 20).isSome = true ∧ specialWritten armed 3 255 = none := by decide

theorem witness_TerminalTrapsReportTheirCause : plain.cfg.trapModel = .terminal := by decide

theorem witness_TerminalTrapsArePrecise :
    (∃ f, exec (.pop 0x1FF) (popping 0x300) = .fault f) ∧ (∃ f, exec (.ldm 1 6) (plain.setLo 1 1) = .fault f) ∧
      (∃ f, exec (.stm 1 6) (plain.setLo 1 1) = .fault f) ∧ (∃ f, exec (.bkpt 0) plain = .fault f) ∧
      ∃ f, exec (.stm 1 0x0E) (edge plain) = .fault f :=
  ⟨⟨_, rfl⟩, ⟨_, rfl⟩, ⟨_, rfl⟩, ⟨_, rfl⟩, ⟨_, rfl⟩⟩

/-- `plain` with nothing mapped below its stack pointer. -/
def shallowest : State := { plain with cfg := { plain.cfg with memMap := [dataAt 0 0x100] } }

theorem witness_TerminalTrapsArePrecise_push : ∃ f, exec (.push 1) shallowest = .fault f := by
  have hs : shallowest.pushSlots 1 = [(0x20000FFC, 0)] := by decide
  have hp : shallowest.slotsPlain [(0x20000FFC, 0)] = false := by decide
  have hm : ∀ s : State, s.cfg = shallowest.cfg →
      memWrite 0x20000FFC .word 0 s = .trap (.busFault 0x20000FFC .write) s := by
    intro s h
    have hc : s.accessClass .write 0x20000FFC .word = none := by
      unfold State.accessClass
      rw [h]
      decide
    unfold memWrite
    rw [if_pos (by decide), hc]
  have he : exec (.push 1) shallowest = raise (.busFault 0x20000FFC .write)
      (State.freeSlots { shallowest with freeIdx := shallowest.freeIdx + 1 } [(0x20000FFC, 0)]) := by
    have hw : writeSlots (shallowest.pushOrder [(0x20000FFC, 0)]) (shallowest.pushStart [(0x20000FFC, 0)]) =
        .trap (.busFault 0x20000FFC .write) { shallowest with freeIdx := shallowest.freeIdx + 1 } := by
      simp only [State.pushOrder, State.pushStart, hp, freeOrder, List.length_singleton, Nat.mod_one, List.getD_cons_zero,
        writeSlots, Bool.false_eq_true, if_false]
      rw [hm { shallowest with freeIdx := shallowest.freeIdx + 1 } rfl]
    simp only [exec, execPush, hs, hw]
    rfl
  exact ⟨_, he.trans rfl⟩

/-- `armed` on a map whose vectors end below that of `SVCall`. -/
def vectorless : State :=
  { armed with cfg := { resetConfig with memMap := [dataAt 0 0x2C, dataAt 0x20000000 0x2000] } }

/-- A state on a map that holds the vectors and the first word of the frame. -/
def stackless (s : State) : State :=
  { s with cfg := { s.cfg with memMap := [dataAt 0 0x100, dataAt 0x20000FE0 4] } }

theorem entryBlocked_vectorless : EntryBlocked vectorless 11 :=
  ⟨by decide, .inr (by unfold plainWords; decide)⟩

theorem entryBlocked_stackless (n : Nat) : EntryBlocked (stackless armed) n :=
  ⟨by decide, .inl ⟨1, by unfold blockedAt plainWords; decide⟩⟩

/-- R306, R313: an `SVC` whose vector cannot be read is a HardFault, with the `SVC`'s return address. -/
theorem test_svc_vectorless :
    (after (.svc 0) { vectorless with mem := Memory.store [] 0x0C 4 0x401 }).map
      (fun t => (t.pc, t.ipsr, t.mem.load 0x20000FF8 4)) = some (0x400, 3, 0x102) := by decide

theorem witness_ExceptionEntryStacksTheFrame_blocked :
    (EntryBlocked vectorless 11 ∧ -1 < vectorless.execPriority ∧ EntryPossible vectorless 3) ∧
    (EntryBlocked (stackless armed) 11 ∧ EntryBlocked (stackless armed) 3) ∧
    (EntryBlocked (stackless { armed with active := [3] }) 2 ∧
      (stackless { armed with active := [3] }).execPriority ≤ -1) :=
  ⟨⟨entryBlocked_vectorless, by decide, by unfold EntryPossible plainWords; decide⟩,
    ⟨entryBlocked_stackless 11, entryBlocked_stackless 3⟩,
    ⟨by decide, .inl ⟨1, by unfold blockedAt plainWords; decide⟩⟩, by decide⟩

theorem witness_ExceptionEntryStacksTheFrame : 47 < 48 ∧ EntryPossible armed 47 ∧ EntryPossible handling 3 := by
  unfold EntryPossible plainWords
  decide

/-- The `SVC` handler, whose own priority does not allow a second `SVC`, with nothing in memory. -/
def nested : State := { handling with active := [11], mem := [] }

theorem witness_CallsAndBreakpointsTakeTheirException :
    (exceptionPriority armed.scs 11 < armed.execPriority ∧ EntryPossible armed 11 ∧ armed.cfg.trapModel = .armv6m) ∧
    (nested.execPriority ≤ exceptionPriority nested.scs 11 ∧ HardFaultPremises nested) ∧
    State.execPriority { nested with active := [3] } ≤ -1 := by
  unfold HardFaultPremises EntryPossible plainWords
  decide

/-- A processor in Lockup. -/
def lockedUp : State := { handling with active := [3], lockup := true }

theorem witness_FaultsBecomeHardFaultOrLockup :
    HardFaultPremises armed ∧ lockedUp.execPriority ≤ -1 ∧ lockedUp.boundary.lockup = true ∧
      lockedUp.boundary.scs.resetRequest = false ∧ lockedUp.boundary.scs.nmiPending = false := by
  unfold HardFaultPremises EntryPossible plainWords
  decide

/-- A processor in Lockup, under a HardFault or an NMI, with an NMI pending. -/
def lockedUpNmi (n : Nat) : State := { lockedUp with active := [n], scs := { Scs.reset with nmiPending := true } }

/-- R306: NMI ends a Lockup of HardFault. -/
theorem test_lockup_nmi :
    nextIs (step (lockedUpNmi 3)) (fun t => !t.lockup && t.ipsr == 2 && t.active == [2, 3]) = true := by decide

theorem witness_FaultsBecomeHardFaultOrLockup_entry :
    (stackless armed).cfg.trapModel = .armv6m ∧ -1 < (stackless armed).execPriority ∧ EntryBlocked (stackless armed) 3 :=
  ⟨by decide, by decide, entryBlocked_stackless 3⟩

theorem witness_FaultsBecomeHardFaultOrLockup_nmi :
    let b := (lockedUpNmi 3).boundary
    (b.lockup = true ∧ b.scs.resetRequest = false) ∧
    (b.scs.nmiPending = true ∧ b.cfg.trapModel = .armv6m ∧ -2 < b.execPriority ∧ EntryPossible b 2) ∧
    (lockedUpNmi 2).boundary.execPriority ≤ -2 := by
  intro b
  unfold EntryPossible plainWords
  decide

/-- A state at the next boundary, with `T` = 0. -/
def thumbClear (s : State) : State := State.boundary { s with epsrT := false }

/-- What the clauses on an instruction that begins with `T` = 0 assume of a boundary. -/
def beginsWithThumbClear (b : State) : Prop :=
  b.scs.resetRequest = false ∧ b.lockup = false ∧ b.waiting = none ∧ b.epsrT = false ∧ b.exceptionToTake = none

theorem witness_FaultsBecomeHardFaultOrLockup_thumbClear :
    (beginsWithThumbClear (thumbClear armed) ∧ (thumbClear armed).mode = .thread ∧
      HardFaultPremises (thumbClear armed)) ∧
    (beginsWithThumbClear (thumbClear nested) ∧ (thumbClear nested).mode = .handler ∧
      HardFaultPremises (thumbClear nested)) ∧
    (beginsWithThumbClear (thumbClear plain) ∧ (thumbClear plain).cfg.trapModel = .terminal) := by
  unfold beginsWithThumbClear HardFaultPremises EntryPossible plainWords
  decide

/-- `handling` with an illegal `EXC_RETURN` in `x[0]` and `LR`. -/
def illegal : State := State.setLo { handling with lr := 0xFFFFFFF5 } 0 0xFFFFFFF5

/-- `handling` on a map that ends at its frame. -/
def frameless : State := { handling with cfg := { resetConfig with memMap := [dataAt 0 0x20000FE0] } }

theorem returnFails_illegal : ReturnFails illegal 0xFFFFFFF5 := ⟨by decide, by decide, by decide, .inl (by decide)⟩

theorem returnFails_frameless : ReturnFails frameless 0xFFFFFFF9 :=
  ⟨by decide, by decide, by decide, .inr ⟨by decide, .inl ⟨0, by unfold blockedAt plainWords; decide⟩⟩⟩

theorem returnFails_nested : ReturnFails nested 0xFFFFFFF9 :=
  ⟨by decide, by decide, by decide, .inr ⟨by decide, .inr (by unfold plainWords; decide)⟩⟩

theorem witness_ExceptionReturnRestoresTheFrame :
    ((14 : BitVec 4) ≠ 15 ∧ ReturnPossible handling (handling.reg 14) ∧ ReturnPossible handling handling.lr) ∧
    (ReturnFails illegal (illegal.reg 0) ∧ ReturnFails illegal illegal.lr) ∧
    (ReturnFails frameless (frameless.reg 14) ∧ ReturnFails frameless frameless.lr) ∧
    (ReturnFails nested (nested.reg 14) ∧ ReturnFails nested nested.lr) :=
  ⟨by unfold ReturnPossible plainWords; decide, ⟨returnFails_illegal, returnFails_illegal⟩,
    ⟨returnFails_frameless, returnFails_frameless⟩, returnFails_nested, returnFails_nested⟩

theorem witness_ExceptionReturnRestoresTheFrame_premises :
    HardFaultPremises illegal ∧ HardFaultPremises frameless ∧ HardFaultPremises nested := by
  unfold HardFaultPremises EntryPossible plainWords
  decide

/-- `POP {PC}` of a value in a handler, with a frame of a stacked `xPSR` above it. -/
def returning (exc psr : Word) : State :=
  { handling with msp := 0x20000FDC, mem := (Memory.store [] 0x20000FDC 4 exc).store 0x20000FFC 4 psr }

/-- A state after `POP {PC}`, before the return. -/
def popped (s : State) : State := { withStack s 0x20000FE0 with regs := s.regs }

/-- What the clauses on `POP {PC}` assume of a state, but for the return. -/
def popsToReturn (s : State) : Prop :=
  (0x100 : BitVec 9).getLsbD 8 = true ∧ s.sp &&& 3#32 = 0 ∧
    plainWords s .read s.sp (listCount ((0x100 : BitVec 9).setWidth 8) + 1) ∧
    (∀ r : BitVec 3, (popped s).lo r =
      if ((0x100 : BitVec 9).setWidth 8).getLsbD r.toNat then
        wordAt s (wordUp s.sp (below ((0x100 : BitVec 9).setWidth 8) r))
      else s.lo r) ∧
    sameHigh s (popped s) ∧
    popped s = { withStack s (wordUp s.sp (listCount ((0x100 : BitVec 9).setWidth 8) + 1)) with
      regs := (popped s).regs }

/-- The value that `POP {PC}` gives `pc`. -/
def poppedValue (s : State) : Word := wordAt s (wordUp s.sp (listCount ((0x100 : BitVec 9).setWidth 8)))

theorem witness_ExceptionReturnRestoresTheFrame_pop :
    popsToReturn (returning 0xFFFFFFF9 0x01000000) ∧
      ReturnPossible (popped (returning 0xFFFFFFF9 0x01000000)) (poppedValue (returning 0xFFFFFFF9 0x01000000)) :=
  ⟨⟨by decide, by decide, by unfold plainWords; decide, by decide, fun _ _ => rfl, by decide⟩,
    by unfold ReturnPossible plainWords; decide⟩

theorem witness_ExceptionReturnRestoresTheFrame_popFails :
    (popsToReturn (returning 0xFFFFFFF5 0) ∧
      ReturnFails (popped (returning 0xFFFFFFF5 0)) (poppedValue (returning 0xFFFFFFF5 0)) ∧
      HardFaultPremises (popped (returning 0xFFFFFFF5 0))) ∧
    (popsToReturn (returning 0xFFFFFFF9 0) ∧
      ReturnFails (popped (returning 0xFFFFFFF9 0)) (poppedValue (returning 0xFFFFFFF9 0)) ∧
      HardFaultPremises (popped (returning 0xFFFFFFF9 0))) :=
  ⟨⟨⟨by decide, by decide, by unfold plainWords; decide, by decide, fun _ _ => rfl, by decide⟩,
      ⟨by decide, by decide, by decide, .inl (by decide)⟩,
      by unfold HardFaultPremises EntryPossible plainWords; decide⟩,
    ⟨by decide, by decide, by unfold plainWords; decide, by decide, fun _ _ => rfl, by decide⟩,
    ⟨by decide, by decide, by decide, .inr ⟨by decide, .inr (by unfold plainWords; decide)⟩⟩,
    by unfold HardFaultPremises EntryPossible plainWords; decide⟩

/-- The HardFault handler of a state. -/
def inHardFault (s : State) : State := { s with active := [3], ipsr := 3 }

theorem witness_ExceptionReturnRestoresTheFrame_lockup :
    (ReturnFails (inHardFault illegal) ((inHardFault illegal).reg 0) ∧
      ReturnFails (inHardFault illegal) (inHardFault illegal).lr ∧ (inHardFault illegal).execPriority ≤ -1) ∧
    (popsToReturn (inHardFault (returning 0xFFFFFFF5 0)) ∧
      ReturnFails (popped (inHardFault (returning 0xFFFFFFF5 0))) (poppedValue (inHardFault (returning 0xFFFFFFF5 0))) ∧
      (popped (inHardFault (returning 0xFFFFFFF5 0))).execPriority ≤ -1) :=
  ⟨⟨⟨by decide, by decide, by decide, .inl (by decide)⟩, ⟨by decide, by decide, by decide, .inl (by decide)⟩, by decide⟩,
    ⟨by decide, by decide, by unfold plainWords; decide, by decide, fun _ _ => rfl, by decide⟩,
    ⟨by decide, by decide, by decide, .inl (by decide)⟩, by decide⟩

theorem witness_ReturnUndoesEntry :
    11 < 48 ∧ armed.Inv ∧ armed.epsrT = true ∧ armed.cfg.trapModel = .armv6m ∧ EntryPossible armed 11 ∧
      plainWords armed .read (frameOf armed) 8 := by
  unfold State.Inv EntryPossible plainWords
  decide

/-- An interrupt and PendSV of equal priority, both pending. -/
def waitingTwo : State := { armed with scs := { Scs.reset with pendSvPending := true, irqEnable := 1, irqPending := 1 } }

theorem witness_HighestPriorityPendingExceptionIsTaken :
    waitingTwo.exceptionToTake = some 14 ∧ State.exceptionToTake { waitingTwo with pm := true } = none ∧
      11 ∈ handling.active ∧ State.pm { armed with pm := true } = true ∧ (armed.active = [] ∧ armed.pm = false) ∧
      State.execPriority { armed with pm := true, active := [3, 11] } = -1 := by decide

/-- NMI pending with `PM` = 1. -/
def maskedNmi : State := { armed with pm := true, scs := { Scs.reset with nmiPending := true } }

theorem witness_PendingExceptionsAreTakenBetweenInstructions :
    (waitingTwo.boundary.cfg.trapModel = .armv6m ∧ waitingTwo.boundary.scs.resetRequest = false ∧
      waitingTwo.boundary.lockup = false ∧ waitingTwo.boundary.waiting = none ∧
      waitingTwo.boundary.exceptionToTake = some 14 ∧ EntryPossible waitingTwo.boundary 14) ∧
    (maskedNmi.boundary.exceptionToTake = some 2 ∧ maskedNmi.boundary.pm = true) := by
  unfold EntryPossible plainWords
  decide

theorem witness_OnlyEntryAndReturnChangeTheMode :
    (∃ t, exec .ret plain = .next t ∧ plain.cfg.trapModel = .terminal) ∧
      (∃ t, exec .ret handling = .next t ∧ handling.mode = .handler ∧ t.mode = .thread) ∧
      ∃ t, exec (.svc 0) armed = .next t ∧ armed.mode = .thread ∧ t.mode = .handler :=
  ⟨⟨_, rfl, rfl⟩, ⟨_, rfl, rfl, rfl⟩, _, rfl, rfl, rfl⟩

theorem witness_OtherInstructionsKeepFlagsAndMask :
    (∃ t, exec (.svc 0) armed = .next t) ∧
      (∃ t, exec .ret { handling with lr := 0x201 } = .next t ∧
        ordinaryTarget { handling with lr := 0x201 } (State.lr { handling with lr := 0x201 })) ∧
      (∃ t, exec (.gotoReg 14) { handling with lr := 0x201 } = .next t ∧
        ordinaryTarget { handling with lr := 0x201 } (State.reg { handling with lr := 0x201 } 14)) ∧
      (∃ t, exec (.pop 0x100) (returning 0x201 0) = .next t ∧
        ∃ v s1, readWords (returning 0x201 0).sp (popCount 0x100) (returning 0x201 0) = .ok [v] s1 ∧
          ordinaryTarget (returning 0x201 0) v) ∧
      (∀ rn, Instr.msr 0 9 ≠ .msr rn 16) ∧ ∃ t, exec (.msr 0 9) armed = .next t :=
  ⟨⟨_, rfl⟩, ⟨_, rfl, by unfold ordinaryTarget; decide⟩, ⟨_, rfl, by unfold ordinaryTarget; decide⟩,
    ⟨_, rfl, 0x201, returning 0x201 0, by decide, by unfold ordinaryTarget; decide⟩, by simp, _, rfl⟩

/-- A running timer that counts 2 down to 0. -/
def ticking : SysTick := ⟨true, true, false, false, 5, 2⟩

theorem witness_SysTickCountsDownAndReloads :
    (2 ≤ ticking.current.toNat ∧ 0 ≤ ticking.current.toNat) ∧ SysTick.current { ticking with current := 0 } = 0 ∧
      armed.scs.sysTick.enable = false ∧
      State.scs { armed with scs := { Scs.reset with sysTick := ticking } } =
        { Scs.reset with sysTick := ticking } ∧ ticking.enable = true := by decide

end Sys2Proof.Tests
end

/-! PROOFS. Additions, subtractions, compares and shifts (R15, R16): `addWithCarry` as integer arithmetic, the shift
helpers as quotients and products by powers of 2, and the instructions that are uses of them. An arm of `exec` is its
instruction's meaning by definition, so a lemma about the meaning states the arm's case as it stands. -/

namespace Sys2Proof.Claims

open Sys2Proof.Machine

/-! ### Words as signed integers -/

/-- Narrowing to 32 bits and reading back signed changes an integer exactly when it does not fit. -/
theorem decide_toInt_ofInt_ne (z : Int) : decide ((BitVec.ofInt 32 z).toInt ≠ z) = !fitsSigned z := by
  have hfits : fitsSigned z = true ↔ -(2 ^ 31) ≤ z ∧ z < 2 ^ 31 := by simp [fitsSigned]
  have hback : (BitVec.ofInt 32 z).toInt = z ↔ fitsSigned z = true := by
    rw [BitVec.toInt_ofInt, Int.bmod_def, hfits]
    omega
  rw [Bool.eq_iff_iff, decide_eq_true_iff, Bool.not_eq_true', ← Bool.not_eq_true, ← hback]

theorem ofInt_toInt_add_toInt (a b : Word) (n : Nat) :
    BitVec.ofInt 32 (a.toInt + b.toInt + n) = BitVec.ofNat 32 (a.toNat + b.toNat + n) := by
  simp [BitVec.ofInt_add, BitVec.ofNat_add]

theorem toInt_complement (b : Word) : (~~~b).toInt = -b.toInt - 1 := by
  rw [BitVec.toInt_eq_toNat_cond, BitVec.toInt_eq_toNat_cond, BitVec.toNat_not]
  have := b.isLt
  omega

/-! ### `addWithCarry` (R15) -/

/-- The overflow bit says that the signed sum does not fit. -/
theorem addWithCarry_eq (a b : Word) (cin : Bool) :
    addWithCarry a b cin =
      ⟨BitVec.ofNat 32 (a.toNat + b.toNat + cin.toNat), decide (2 ^ 32 ≤ a.toNat + b.toNat + cin.toNat),
        !fitsSigned (a.toInt + b.toInt + cin.toNat)⟩ := by
  rw [← decide_toInt_ofInt_ne, ofInt_toInt_add_toInt]
  rfl

theorem addWithCarry_add (a b : Word) :
    addWithCarry a b false =
      ⟨a + b, decide (2 ^ 32 ≤ a.toNat + b.toNat), !fitsSigned (a.toInt + b.toInt)⟩ := by
  simp [addWithCarry_eq, BitVec.ofNat_add]

/-- With the complement, a carry in of 0 is a borrow of 1 (R234). -/
theorem addWithCarry_complement (a b : Word) (cin : Bool) :
    addWithCarry a (~~~b) cin =
      ⟨BitVec.ofInt 32 (a.toNat - b.toNat - (1 - cin.toNat)), decide (b.toNat + (1 - cin.toNat) ≤ a.toNat),
        !fitsSigned (a.toInt - b.toInt - (1 - cin.toNat))⟩ := by
  have hc : cin.toNat ≤ 1 := Bool.toNat_le cin
  have hb := b.isLt
  have hvalue : BitVec.ofNat 32 (a.toNat + (~~~b).toNat + cin.toNat) =
      BitVec.ofInt 32 (a.toNat - b.toNat - (1 - cin.toNat)) := by
    apply BitVec.eq_of_toNat_eq
    rw [BitVec.toNat_ofNat, BitVec.toNat_ofInt, BitVec.toNat_not]
    omega
  have hcarry : 2 ^ 32 ≤ a.toNat + (~~~b).toNat + cin.toNat ↔ b.toNat + (1 - cin.toNat) ≤ a.toNat := by
    rw [BitVec.toNat_not]
    omega
  have hsigned : a.toInt + (~~~b).toInt + cin.toNat = a.toInt - b.toInt - (1 - cin.toNat) := by
    rw [toInt_complement]
    omega
  rw [addWithCarry_eq, hvalue, decide_eq_decide.mpr hcarry, hsigned]

theorem addWithCarry_sub (a b : Word) :
    addWithCarry a (~~~b) true = ⟨a - b, decide (b.toNat ≤ a.toNat), !fitsSigned (a.toInt - b.toInt)⟩ := by
  have hvalue : BitVec.ofInt 32 (a.toNat - b.toNat) = a - b := by
    apply BitVec.eq_of_toNat_eq
    rw [BitVec.toNat_ofInt, BitVec.toNat_sub]
    omega
  simp [addWithCarry_complement, hvalue]

theorem addWithCarry_comm (a b : Word) (cin : Bool) : addWithCarry a b cin = addWithCarry b a cin := by
  rw [addWithCarry_eq, addWithCarry_eq, Nat.add_comm a.toNat, Int.add_comm a.toInt]

/-- Settles O15: the overflow bit by `decide_toInt_ofInt_ne`, the subtraction by the complement. -/
theorem addWithCarryIsAdditionAndSubtraction : Obligations.AddWithCarryIsAdditionAndSubtraction :=
  fun a b => ⟨addWithCarry_add a b, addWithCarry_sub a b, addWithCarry_eq a b⟩

/-! ### The ends of the instructions, in the words of the claims -/

theorem result_eq_wrote (s : State) (rd : BitVec 3) (v : Word) (f : Flags) : s.result rd v f = wrote s rd v f := rfl

theorem resultFlags_eq_wroteFlags (s : State) (f : Flags) : s.resultFlags f = wroteFlags s f := rfl

theorem setNZ_eq_nzFlags (f : Flags) (r : Word) : f.setNZ r = nzFlags f r := rfl

theorem ofSum_add (a b : Word) : Flags.ofSum (addWithCarry a b false) = addFlags a b := by
  rw [addWithCarry_add]
  rfl

theorem ofSum_sub (a b : Word) : Flags.ofSum (addWithCarry a (~~~b) true) = subFlags a b := by
  rw [addWithCarry_sub]
  rfl

/-- The end of the three additions (R120, R124, R126). -/
theorem result_add (s : State) (rd : BitVec 3) (a b : Word) :
    s.result rd (addWithCarry a b false).value (Flags.ofSum (addWithCarry a b false)) =
      wrote s rd (a + b) (addFlags a b) := by
  rw [ofSum_add, addWithCarry_add, result_eq_wrote]

/-- The end of the three subtractions (R121, R125, R127). -/
theorem result_sub (s : State) (rd : BitVec 3) (a b : Word) :
    s.result rd (addWithCarry a (~~~b) true).value (Flags.ofSum (addWithCarry a (~~~b) true)) =
      wrote s rd (a - b) (subFlags a b) := by
  rw [ofSum_sub, addWithCarry_sub, result_eq_wrote]

/-! ### Additions, subtractions and compares -/

/-- Settles O16: each instruction is `result_add` or `result_sub` of its operands. -/
theorem additionsAndSubtractionsWriteTheirResult : Obligations.AdditionsAndSubtractionsWriteTheirResult := by
  intro s rd rn rm u3 u8
  refine ⟨?addImm8, ?addImm3, ?addReg, ?subImm8, ?subImm3, ?subReg⟩
  case addImm8 => exact congrArg Host.Outcome.next (result_add s rd (s.lo rd) (u8.setWidth 32))
  case addImm3 => exact congrArg Host.Outcome.next (result_add s rd (s.lo rn) (u3.setWidth 32))
  case addReg => exact congrArg Host.Outcome.next (result_add s rd (s.lo rn) (s.lo rm))
  case subImm8 => exact congrArg Host.Outcome.next (result_sub s rd (s.lo rd) (u8.setWidth 32))
  case subImm3 => exact congrArg Host.Outcome.next (result_sub s rd (s.lo rn) (u3.setWidth 32))
  case subReg => exact congrArg Host.Outcome.next (result_sub s rd (s.lo rn) (s.lo rm))

/-- The only word with a negation that does not fit is the least one. -/
theorem not_fitsSigned_neg (x : Word) : (!fitsSigned (-x.toInt)) = (x == 0x80000000#32) := by
  have hleast : x = 0x80000000#32 ↔ x.toInt = -(2 ^ 31) := BitVec.toInt_inj.symm
  have hlo := BitVec.le_toInt x
  have hhi := BitVec.toInt_lt (x := x)
  rw [Bool.eq_iff_iff, beq_iff_eq, hleast]
  simp only [fitsSigned, Bool.not_eq_true', Bool.and_eq_false_iff, decide_eq_false_iff_not]
  omega

/-- `0 - x` borrows unless `x` is 0 (R128). -/
theorem subFlags_zero_left (x : Word) :
    subFlags 0#32 x = ⟨(-x).msb, x == 0, x == 0, x == 0x80000000#32⟩ := by
  have hz : (-x == 0) = (x == 0) := by
    rw [Bool.eq_iff_iff, beq_iff_eq, beq_iff_eq]
    exact BitVec.neg_eq_zero_iff
  have hc : decide (x.toNat ≤ 0) = (x == 0) := by
    rw [Bool.eq_iff_iff, beq_iff_eq, decide_eq_true_iff, ← BitVec.toNat_inj]
    exact Nat.le_zero
  have hv : (!fitsSigned (0 - x.toInt)) = (x == 0x80000000#32) := by rw [Int.zero_sub, not_fitsSigned_neg]
  simp only [subFlags, BitVec.zero_sub, hz]
  exact congrArg₂ (Flags.mk _ _) hc hv

/-- Settles O17: the negation is the subtraction from 0, with the operands of `addWithCarry` exchanged. -/
theorem negationOfARegister : Obligations.NegationOfARegister := by
  intro s rd rm
  have h := result_sub s rd 0#32 (s.lo rm)
  rw [addWithCarry_comm, subFlags_zero_left, BitVec.zero_sub] at h
  exact congrArg Host.Outcome.next h

/-- Settles O19: the sum by `addWithCarry_eq`, the difference by `addWithCarry_complement`. -/
theorem carryArithmetic : Obligations.CarryArithmetic := by
  intro s rd rm a b c sum diff
  have hadc : exec (.adc rd rm) s = .next (wrote s rd (addWithCarry a b s.flags.c).value
      (Flags.ofSum (addWithCarry a b s.flags.c))) := rfl
  have hsbc : exec (.sbc rd rm) s = .next (wrote s rd (addWithCarry a (~~~b) s.flags.c).value
      (Flags.ofSum (addWithCarry a (~~~b) s.flags.c))) := rfl
  constructor
  · rw [hadc, addWithCarry_eq]
    rfl
  · rw [hsbc, addWithCarry_complement]
    rfl

/-- R182: the 4-bit compare of two registers that are neither `PC` nor both low. -/
theorem execCmpHi_eq (s : State) (hn hm : BitVec 4) (hnPc : hn ≠ 15) (hmPc : hm ≠ 15)
    (hhigh : 8 ≤ hn.toNat ∨ 8 ≤ hm.toNat) :
    execCmpHi hn hm s = .next (wroteFlags s (subFlags (s.reg hn) (s.reg hm))) := by
  have hpc : ¬ (hn = 15 ∨ hm = 15) := not_or.mpr ⟨hnPc, hmPc⟩
  have hlow : ¬ (hn.toNat < 8 ∧ hm.toNat < 8) := by omega
  rw [execCmpHi, if_neg hpc, if_neg hlow, ofSum_sub, resultFlags_eq_wroteFlags]

/-- R182, U7: `PC` as an operand. -/
theorem execCmpHi_pc (s : State) (hn hm : BitVec 4) (hpc : hn = 15 ∨ hm = 15) :
    execCmpHi hn hm s = .refused .compareWithPc := if_pos hpc

/-- R182, U7: two low registers, neither of which can be `PC`. -/
theorem execCmpHi_low (s : State) (hn hm : BitVec 4) (hnLow : hn.toNat < 8) (hmLow : hm.toNat < 8) :
    execCmpHi hn hm s = .refused .compareTwoLow := by
  have hpc : ¬ (hn = 15 ∨ hm = 15) := by
    rintro (rfl | rfl)
    · exact absurd hnLow (by decide)
    · exact absurd hmLow (by decide)
  rw [execCmpHi, if_neg hpc, if_pos ⟨hnLow, hmLow⟩]

/-- Settles O27: a case per compare, the 4-bit one by its three lemmas. -/
theorem comparesWriteOnlyFlags : Obligations.ComparesWriteOnlyFlags := by
  intro s rn rm u8 hn hm
  refine ⟨?cmpImm, ?cmpReg, ?cmn, ?tst, execCmpHi_pc s hn hm, execCmpHi_low s hn hm, execCmpHi_eq s hn hm⟩
  case cmpImm => exact congrArg (fun f => Host.Outcome.next (wroteFlags s f)) (ofSum_sub (s.lo rn) (u8.setWidth 32))
  case cmpReg => exact congrArg (fun f => Host.Outcome.next (wroteFlags s f)) (ofSum_sub (s.lo rn) (s.lo rm))
  case cmn => exact congrArg (fun f => Host.Outcome.next (wroteFlags s f)) (ofSum_add (s.lo rn) (s.lo rm))
  case tst =>
    exact congrArg (fun f => Host.Outcome.next (wroteFlags s f)) (setNZ_eq_nzFlags s.flags (s.lo rn &&& s.lo rm))

/-! ### The shift helpers (R16) -/

/-- A left shift by 32 or less is a product, its carry bit 32 of that product; by more nothing is left. -/
theorem lslC_eq_leftShift (x : Word) (n : Nat) : lslC x n = leftShift x n := by
  have hbit : (x.toNat * 2 ^ n).testBit 32 = (decide (n ≤ 32) && x.getLsbD (32 - n)) := Nat.testBit_mul_two_pow ..
  have hvalue : BitVec.ofNat 32 (x.toNat * 2 ^ n) = x <<< n := by
    apply BitVec.eq_of_toNat_eq
    rw [BitVec.toNat_ofNat, BitVec.toNat_shiftLeft, Nat.shiftLeft_eq]
  rw [leftShift, hbit, hvalue, lslC]
  split
  next h => simp [show n ≤ 32 by omega]
  next h =>
    rw [BitVec.shiftLeft_eq_zero (by omega)]
    split
    next h32 => simp [h32]
    next h32 => simp [show ¬ n ≤ 32 by omega]

/-- A logical right shift is a quotient; beyond 32 neither a bit of the quotient nor of the carry is left. -/
theorem lsrC_eq_rightShift (x : Word) (n : Nat) : lsrC x n = rightShift x n := by
  have hvalue : BitVec.ofNat 32 (x.toNat / 2 ^ n) = x >>> n := by
    rw [← Nat.shiftRight_eq_div_pow, ← BitVec.toNat_ushiftRight, BitVec.ofNat_toNat, BitVec.setWidth_eq]
  have hbit : x.toNat.testBit (n - 1) = x.getLsbD (n - 1) := rfl
  rw [rightShift, hvalue, hbit, lsrC]
  split
  next h => rfl
  next h =>
    rw [BitVec.ushiftRight_eq_zero (by omega)]
    split
    next h32 => rw [h32]; rfl
    next h32 => rw [BitVec.getLsbD_of_ge x (n - 1) (by omega)]; rfl

/-- The parity of a word's signed value is its bit 0. -/
theorem decide_toInt_emod_two (y : Word) : decide (y.toInt % 2 = 1) = y.getLsbD 0 := by
  have hparity : y.toInt % 2 = 1 ↔ y.toNat % 2 = 1 := by
    rw [BitVec.toInt_eq_toNat_cond]
    omega
  rw [BitVec.getLsbD, Nat.testBit_zero, decide_eq_decide.mpr hparity]

/-- The floor of the signed quotient is the shift that repeats the sign, at every amount. -/
theorem signedShift_eq (x : Word) (n : Nat) :
    signedShift x n = (x.sshiftRight n, if n - 1 < 32 then x.getLsbD (n - 1) else x.msb) := by
  have hquot : ∀ k : Nat, x.toInt / 2 ^ k = (x.sshiftRight k).toInt := fun k => by
    rw [BitVec.toInt_sshiftRight, Int.shiftRight_eq_div_pow]
    norm_cast
  rw [signedShift, hquot, hquot, BitVec.ofInt_toInt, decide_toInt_emod_two, BitVec.getLsbD_sshiftRight]
  rfl

/-- Once every bit is shifted out, the sign is all that is left. -/
theorem sshiftRight_of_ge (x : Word) (n : Nat) (h : 32 ≤ n) :
    x.sshiftRight n = if x.getLsbD 31 then 0xFFFFFFFF else 0 := by
  have hmsb : x.getLsbD 31 = x.msb := rfl
  rw [hmsb]
  cases hx : x.msb
  case false => rw [BitVec.sshiftRight_eq_of_msb_false hx, BitVec.ushiftRight_eq_zero h]; rfl
  case true => rw [BitVec.sshiftRight_eq_of_msb_true hx, BitVec.ushiftRight_eq_zero h]; rfl

theorem asrC_eq_signedShift (x : Word) (n : Nat) (hn : 1 ≤ n) : asrC x n = signedShift x n := by
  rw [signedShift_eq, asrC]
  split
  next h => rw [if_pos (by omega)]
  next h =>
    have hcarry : (if n - 1 < 32 then x.getLsbD (n - 1) else x.msb) = x.getLsbD 31 := by
      split
      next h32 => rw [show n - 1 = 31 by omega]
      next h32 => rfl
    rw [sshiftRight_of_ge x n (by omega), hcarry]

/-- Only the amount modulo 32 counts, and amount 0 of it is no rotation. -/
theorem rorC_eq_rightRotation (x : Word) (n : Nat) : rorC x n = rightRotation x n := by
  have hrot : (if n % 32 = 0 then x else (x >>> (n % 32)) ||| (x <<< (32 - n % 32))) = x.rotateRight n := by
    rw [BitVec.rotateRight_def]
    split
    next h => simp [h]
    next h => rfl
  rw [rorC, hrot]
  rfl

/-- Settles O20: one lemma per helper. -/
theorem shiftHelpersFollowArithmetic : Obligations.ShiftHelpersFollowArithmetic :=
  fun x n => ⟨fun hn => ⟨lslC_eq_leftShift x n, lsrC_eq_rightShift x n, asrC_eq_signedShift x n hn,
    rorC_eq_rightRotation x n⟩, fun op f => shiftBy_zero op x f⟩

/-! ### Shift instructions -/

/-- The end of every shift: the helper may be replaced by the arithmetic it agrees with from amount 1 up. -/
theorem result_shiftBy (s : State) (op arith : Word → Nat → Word × Bool) (rd : BitVec 3) (x : Word) (n : Nat)
    (hop : 1 ≤ n → op x n = arith x n) :
    s.result rd (shiftBy op x n s.flags).1 (shiftBy op x n s.flags).2 = shifted s arith rd x n := by
  by_cases hn : n = 0
  · rw [hn, shiftBy_zero, shifted, if_pos rfl, setNZ_eq_nzFlags, result_eq_wrote]
  · rw [shiftBy_pos op x hn, hop (Nat.pos_of_ne_zero hn), shifted, if_neg hn, result_eq_wrote]
    rfl

theorem result_lsl (s : State) (rd : BitVec 3) (x : Word) (n : Nat) :
    s.result rd (shiftBy lslC x n s.flags).1 (shiftBy lslC x n s.flags).2 = shifted s leftShift rd x n :=
  result_shiftBy s lslC leftShift rd x n fun _ => lslC_eq_leftShift x n

theorem result_lsr (s : State) (rd : BitVec 3) (x : Word) (n : Nat) :
    s.result rd (shiftBy lsrC x n s.flags).1 (shiftBy lsrC x n s.flags).2 = shifted s rightShift rd x n :=
  result_shiftBy s lsrC rightShift rd x n fun _ => lsrC_eq_rightShift x n

theorem result_asr (s : State) (rd : BitVec 3) (x : Word) (n : Nat) :
    s.result rd (shiftBy asrC x n s.flags).1 (shiftBy asrC x n s.flags).2 = shifted s signedShift rd x n :=
  result_shiftBy s asrC signedShift rd x n (asrC_eq_signedShift x n)

theorem result_ror (s : State) (rd : BitVec 3) (x : Word) (n : Nat) :
    s.result rd (shiftBy rorC x n s.flags).1 (shiftBy rorC x n s.flags).2 = shifted s rightRotation rd x n :=
  result_shiftBy s rorC rightRotation rd x n fun _ => rorC_eq_rightRotation x n

/-- A register that is written with its own value: only flags and `pc` change (R250). -/
theorem wrote_lo_self (s : State) (rd : BitVec 3) (f : Flags) : wrote s rd (s.lo rd) f = wroteFlags s f := by
  rw [wrote, State.lo, Vector.set_getElem_self, wroteFlags]

/-- Settles O21: `NOP` writes `x[0]` back to itself. -/
theorem leftShiftByImmediate : Obligations.LeftShiftByImmediate := by
  intro s rd rm u5
  constructor
  · exact congrArg Host.Outcome.next (result_lsl s rd (s.lo rm) u5.toNat)
  · exact congrArg Host.Outcome.next (wrote_lo_self s 0 (nzFlags s.flags (s.lo 0)))

/-! #### Right shifts by an immediate, by what the field says (R131, R228) -/

section ImmediateRightShift

variable (op : Word → Nat → Word × Bool) (rd rm : BitVec 3) (s : State)

theorem immRightShift_pos (u5 : BitVec 5) (h : u5 ≠ 0) :
    immRightShift op rd rm u5 s =
      .next (s.result rd (shiftBy op (s.lo rm) u5.toNat s.flags).1 (shiftBy op (s.lo rm) u5.toNat s.flags).2) :=
  if_neg h

theorem immRightShift_amount0 (h : s.cfg.immShift0 = .amount0) :
    immRightShift op rd rm 0 s = .next (wrote s rd (s.lo rm) (nzFlags s.flags (s.lo rm))) := by
  rw [immRightShift, if_pos rfl, h]
  rfl

theorem immRightShift_amount32 (h : s.cfg.immShift0 = .amount32) :
    immRightShift op rd rm 0 s =
      .next (wrote s rd (op (s.lo rm) 32).1 (nzcFlags s.flags (op (s.lo rm) 32).1 (op (s.lo rm) 32).2)) := by
  rw [immRightShift, if_pos rfl, h]
  rfl

theorem immRightShift_unset (h : s.cfg.immShift0 = .unset) :
    immRightShift op rd rm 0 s = .refused .immShift0Unset := by
  rw [immRightShift, if_pos rfl, h]

end ImmediateRightShift

/-- At amount 32 only the carry, bit 31, is left. -/
theorem lsrC_32 (x : Word) : lsrC x 32 = (0, x.msb) := rfl

/-- At amount 32 the result and the carry are the sign. -/
theorem asrC_32 (x : Word) : asrC x 32 = (if x.msb then 0xFFFFFFFF else 0, x.msb) := rfl

theorem nzcFlags_zero (f : Flags) (c : Bool) : nzcFlags f 0 c = ⟨false, true, c, f.v⟩ := rfl

/-- The flags of a word that repeats the sign `c` in every bit. -/
theorem nzcFlags_sign (f : Flags) (c : Bool) :
    nzcFlags f (if c then 0xFFFFFFFF else 0) c = ⟨c, !c, c, f.v⟩ := by
  cases c <;> rfl

/-- Settles O22: the four readings of the field, each for both shifts. -/
theorem rightShiftsByImmediate : Obligations.RightShiftsByImmediate := by
  intro s rd rm u5
  refine ⟨fun hu => ⟨?lsr, ?asr⟩, fun h0 => ⟨?lsr0, ?asr0⟩,
    fun h32 => ⟨?lsr32, ?asr32⟩, fun hun => ⟨?lsrU, ?asrU⟩⟩
  case lsr => exact (immRightShift_pos lsrC rd rm s u5 hu).trans (congrArg _ (result_lsr s rd (s.lo rm) u5.toNat))
  case asr => exact (immRightShift_pos asrC rd rm s u5 hu).trans (congrArg _ (result_asr s rd (s.lo rm) u5.toNat))
  case lsr0 => exact immRightShift_amount0 lsrC rd rm s h0
  case asr0 => exact immRightShift_amount0 asrC rd rm s h0
  case lsr32 =>
    have h := immRightShift_amount32 lsrC rd rm s h32
    rw [lsrC_32, nzcFlags_zero] at h
    exact h
  case asr32 =>
    have h := immRightShift_amount32 asrC rd rm s h32
    rw [asrC_32, nzcFlags_sign] at h
    exact h
  case lsrU => exact immRightShift_unset lsrC rd rm s hun
  case asrU => exact immRightShift_unset asrC rd rm s hun

/-- The amount of the shifts by a register, as a number (R132). -/
theorem lowByte_toNat (x : Word) : (x.extractLsb' 0 8).toNat = x.toNat % 256 := by
  rw [BitVec.extractLsb'_toNat, Nat.shiftRight_zero]

/-- Settles O23: the four shifts by the low byte of `Rm`. -/
theorem shiftsByRegister : Obligations.ShiftsByRegister := by
  intro s rd rm n
  have hn : ((s.lo rm).extractLsb' 0 8).toNat = n := lowByte_toNat (s.lo rm)
  rw [← hn]
  refine ⟨?lsl, ?lsr, ?asr, ?ror⟩
  case lsl => exact congrArg Host.Outcome.next (result_lsl s rd (s.lo rd) _)
  case lsr => exact congrArg Host.Outcome.next (result_lsr s rd (s.lo rd) _)
  case asr => exact congrArg Host.Outcome.next (result_asr s rd (s.lo rd) _)
  case ror => exact congrArg Host.Outcome.next (result_ror s rd (s.lo rd) _)

end Sys2Proof.Claims

/-! PROOFS. Single accesses (R51 to R58, R67): alignment, reads and writes of plain memory by their bytes, and the loads
and stores that are one access each. An arm of `exec` is its instruction's meaning by definition, so a lemma about
`loadTo` or `storeFrom` states the arm's case as it stands. -/

namespace Sys2Proof.Claims
open Sys2Proof.Machine

/-! ### Sizes and alignment (R51, R56) -/

theorem size_bytes_le (z : Size) : z.bytes ≤ 4 := by cases z <;> decide

theorem aligned_iff (a : Word) (z : Size) : aligned a z = true ↔ a.toNat % z.bytes = 0 := beq_iff_eq

theorem memRead_misaligned {a : Word} {z : Size} (k : AccessKind) (s : State) (h : a.toNat % z.bytes ≠ 0) :
    memRead k a z s = .trap (.unalignedAccess a) s :=
  if_neg (mt (aligned_iff a z).mp h)

theorem memWrite_misaligned {a : Word} {z : Size} (v : Word) (s : State) (h : a.toNat % z.bytes ≠ 0) :
    memWrite a z v s = .trap (.unalignedAccess a) s :=
  if_neg (mt (aligned_iff a z).mp h)

/-- Settles O12: `memRead_misaligned` and `memWrite_misaligned`; every address is a multiple of 1. -/
theorem misalignedAccessesAreNotPerformed : Obligations.MisalignedAccessesAreNotPerformed := by
  intro s kind a v size
  refine ⟨fun h => ⟨memRead_misaligned kind s h, memWrite_misaligned v s h⟩, ?_⟩
  rintro rfl
  exact Nat.mod_one _

/-! ### Reads (R54) -/

/-- Bytes `i` to `i + n - 1` of a stored word, loaded as one value. -/
theorem load_store_part (m : Memory) (a v : Word) (i n : Nat) (h : i + n ≤ 4) :
    (m.store a 4 v).load (a + BitVec.ofNat 32 i) n = (v.extractLsb' (8 * i) (8 * n)).setWidth 32 := by
  induction n generalizing i with
  | zero => simp [Memory.load]
  | succ n ih =>
    have hnext : a + BitVec.ofNat 32 i + 1 = a + BitVec.ofNat 32 (i + 1) := add_wordUp a i 1
    rw [Memory.load, hnext, ih (i + 1) (by omega), Memory.read_store_same m a v 4 i (by omega) (by omega)]
    apply BitVec.eq_of_getLsbD_eq
    intro j hj
    simp only [BitVec.getLsbD_or, BitVec.getLsbD_setWidth, BitVec.getLsbD_shiftLeft, BitVec.getLsbD_extractLsb']
    by_cases hlow : j < 8
    · simp [hlow, hj, show j < 8 * (n + 1) by omega]
    · have hbit : 8 * (i + 1) + (j - 8) = 8 * i + j := by omega
      have hin : j - 8 < 8 * n ↔ j < 8 * (n + 1) := by omega
      simp [hlow, hj, hbit, hin, show j - 8 < 32 by omega]

/-- Settles O9: a read of plain memory is `Memory.load`, whose value `Memory.load_toNat` gives. -/
theorem readsAreLittleEndian : Obligations.ReadsAreLittleEndian := by
  refine ⟨fun s a size kind ha hc => ?value, fun m a => ?bytes⟩
  case value =>
    obtain ⟨hsum, -⟩ := Memory.load_toNat s.mem a size.bytes (size_bytes_le size)
    exact ⟨_, memRead_plain ((aligned_iff a size).mpr ha) hc, hsum⟩
  case bytes =>
    have hpart := load_store_part m a 0x11223344
    have h0 : a + BitVec.ofNat 32 0 = a := BitVec.add_zero a
    have h01 := hpart 0 1 (by decide)
    have h02 := hpart 0 2 (by decide)
    rw [h0] at h01 h02
    exact ⟨h01, hpart 1 1 (by decide), h02, hpart 2 2 (by decide)⟩

/-! ### Writes (R55, R67) -/

theorem extract_byte_toNat (v : Word) (i : Nat) :
    (v.extractLsb' (8 * i) 8).toNat = v.toNat / 2 ^ (8 * i) % 256 := by
  rw [BitVec.extractLsb'_toNat, Nat.shiftRight_eq_div_pow]

/-- The bytes of an access of one kind, a device's apart, are all of that kind (R58). -/
theorem byteClass_of_accessClass {s : State} {kind : AccessKind} {x : RegionKind} {a : Word} {z : Size}
    (hx : x ≠ .device) (h : s.accessClass kind a z = some x) (k : Nat) (hk : k < z.bytes) :
    byteClass s.cfg kind (a + BitVec.ofNat 32 k).toNat = some x :=
  bytesClass_bytes hx a (z.bytes - 1) h k (by omega)

/-- A store to plain bytes only is a store to what of its bytes is plain. -/
theorem storePlainBytes_all (c : Config) (m : Memory) (a v : Word) (n : Nat)
    (h : ∀ k < n, byteClass c .write (a + BitVec.ofNat 32 k).toNat = some .plain) :
    storePlainBytes c m a n v = m.store a n v := by
  induction n generalizing m a v with
  | zero => rfl
  | succ n ih =>
    have h0 := h 0 (by omega)
    simp only [BitVec.add_zero] at h0
    rw [storePlainBytes, if_pos h0, Memory.store]
    exact ih _ _ _ fun k hk => by rw [add_one_add_ofNat]; exact h (k + 1) (by omega)

/-- Every admitted write stores those of its bytes that are plain memory and marks all of them, whoever sees it. -/
theorem memWrite_admitted {a : Word} {z : Size} {s : State} (v : Word) (ha : aligned a z = true)
    (hc : s.accessClass .write a z ≠ none) :
    ∃ t, memWrite a z v s = .ok () t ∧ t.mem = storePlainBytes s.cfg s.mem a z.bytes v ∧
      t.dirty = markBytes a z.bytes s.dirty := by
  unfold memWrite
  rw [if_pos ha]
  cases hclass : s.accessClass .write a z with
  | none => exact absurd hclass hc
  | some x =>
    cases x with
    | plain =>
      exact ⟨_, rfl, (storePlainBytes_all _ _ _ _ _ (byteClass_of_accessClass (by decide) hclass)).symm, rfl⟩
    | device => exact ⟨_, rfl, rfl, rfl⟩
    | system =>
      simp only
      split
      · next t ht =>
        split at ht
        · obtain ⟨c, e, rfl⟩ := State.writeSystem_eq ht
          have hnone : storePlainBytes s.cfg s.mem a z.bytes v = s.mem :=
            storePlainBytes_none _ _ _ _ _ fun k hk => by
              rw [byteClass_of_accessClass (by decide) hclass k hk]; decide
          exact ⟨_, rfl, hnone.symm, rfl⟩
        · cases ht
      · exact ⟨_, rfl, rfl, rfl⟩

theorem marked_of_markBytes {s t : State} {a : Word} {n : Nat} (h : t.dirty = markBytes a n s.dirty) :
    marked s t a n := fun b => by rw [h, mem_markBytes]

theorem marked_storePlain (s : State) (a : Word) (z : Size) (v : Word) : marked s (s.storePlain a z v) a z.bytes :=
  marked_of_markBytes rfl

theorem sameOutside_storePlain (s : State) (a : Word) (z : Size) (v : Word) :
    sameOutside s (s.storePlain a z v) a z.bytes :=
  Memory.read_store_other s.mem a v z.bytes

theorem byteAt_storePlain (s : State) (a : Word) (z : Size) (v : Word) (k : Nat) (hk : k < z.bytes) :
    byteAt (s.storePlain a z v) (a + BitVec.ofNat 32 k) = v.extractLsb' (8 * k) 8 :=
  Memory.read_store_same s.mem a v z.bytes k ((size_bytes_le z).trans (by decide)) hk

/-- Settles O10: a write to plain memory is `storePlain`; of any admitted one `memWrite_admitted` says which bytes are
stored. -/
theorem writesSetTheirBytesAndNoOther : Obligations.WritesSetTheirBytesAndNoOther := by
  intro s a v size hmod
  have ha : aligned a size = true := (aligned_iff a size).mpr hmod
  refine ⟨fun hc => ?plain, fun hc => ?admitted⟩
  case plain =>
    refine ⟨_, memWrite_plain v ha hc, fun i hi => ?_, sameOutside_storePlain s a size v,
      marked_storePlain s a size v, rfl⟩
    rw [byteAt_storePlain s a size v i hi, extract_byte_toNat]
  case admitted =>
    obtain ⟨t, hwrite, hmem, hdirty⟩ := memWrite_admitted v ha hc
    refine ⟨t, hwrite, fun i hi hp => ?_, fun b hb => ?_, marked_of_markBytes hdirty⟩
    · have hn : size.bytes ≤ 2 ^ 32 := (size_bytes_le size).trans (by decide)
      rw [byteAt, hmem, Memory.read_storePlainBytes_same _ _ _ _ _ _ hn hi hp, extract_byte_toNat]
    · rw [hmem, Memory.read_storePlainBytes_other _ _ _ _ _ _ hb]

/-! ### Loads in plain memory (R150 to R158, R215) -/

/-- A load in plain memory, by the value that memory holds at its address. -/
theorem loadTo_plain {s : State} {a v : Word} {z : Size} (rd : BitVec 3) (e : Word → Word)
    (hv : e (s.mem.load a z.bytes) = v) (ha : a.toNat % z.bytes = 0) (hc : s.accessClass .read a z = some .plain) :
    loadTo rd z e a s = .next (wroteReg s rd v) := by
  rw [loadTo, memRead_plain ((aligned_iff a z).mpr ha) hc, ← hv]
  rfl

theorem load_byte (s : State) (a : Word) : s.mem.load a Size.byte.bytes = (byteAt s a).setWidth 32 :=
  Memory.load_one s.mem a

theorem load_half (s : State) (a : Word) : s.mem.load a Size.half.bytes = (halfAt s a).setWidth 32 :=
  Memory.load_two s.mem a

theorem load_word (s : State) (a : Word) : s.mem.load a Size.word.bytes = wordAt s a := Memory.load_four s.mem a

theorem signExtendByte_setWidth (b : Byte) : signExtendByte (b.setWidth 32) = BitVec.ofInt 32 b.toInt := by
  rw [signExtendByte, BitVec.setWidth_setWidth_of_le _ (by decide), BitVec.setWidth_eq]
  rfl

theorem signExtendHalf_setWidth (h : Half) : signExtendHalf (h.setWidth 32) = BitVec.ofInt 32 h.toInt := by
  rw [signExtendHalf, BitVec.setWidth_setWidth_of_le _ (by decide), BitVec.setWidth_eq]
  rfl

theorem addrImm_eq (s : State) (rn : BitVec 3) (u5 : BitVec 5) (scale : Word) :
    s.addrImm rn u5 scale = s.lo rn + scale * u5.setWidth 32 := by
  rw [State.addrImm, BitVec.mul_comm]

theorem wordOffset_toNat (u8 : BitVec 8) : (u8.setWidth 32 * 4 : Word).toNat = 4 * u8.toNat := by
  have h4 : (4 : Word).toNat = 4 := rfl
  rw [BitVec.toNat_mul, BitVec.toNat_setWidth, h4]
  omega

theorem addrPc_eq (s : State) (u8 : BitVec 8) :
    s.addrPc u8 = BitVec.ofNat 32 ((s.pc + 4).toNat / 4 * 4 + 4 * u8.toNat) := by
  apply BitVec.eq_of_toNat_eq
  rw [State.addrPc, BitVec.toNat_add, alignWord_toNat, wordOffset_toNat, BitVec.toNat_ofNat]

theorem addrSp_toNat (s : State) (u8 : BitVec 8) : (s.addrSp u8).toNat = (s.sp.toNat + 4 * u8.toNat) % 2 ^ 32 := by
  rw [State.addrSp, BitVec.toNat_add, wordOffset_toNat]

theorem addrSp_eq (s : State) (u8 : BitVec 8) : s.addrSp u8 = BitVec.ofNat 32 (s.sp.toNat + 4 * u8.toNat) := by
  apply BitVec.eq_of_toNat_eq
  rw [addrSp_toNat, BitVec.toNat_ofNat]

/-- Settles O29: each instruction is `loadTo` at its address, and the value is `load_byte`, `load_half` or `load_word`
with its extension. -/
theorem loadsReadPlainMemory : Obligations.LoadsReadPlainMemory := by
  intro s rd rn rm u5 u8 imm idx lit slot
  have himm : ∀ scale, s.addrImm rn u5 scale = imm scale := addrImm_eq s rn u5
  have hlit : s.addrPc u8 = lit := addrPc_eq s u8
  have hslot : s.addrSp u8 = slot := addrSp_eq s u8
  rw [← himm, ← himm, ← himm, ← hlit, ← hslot]
  have hbyte : ∀ a, signExtendByte (s.mem.load a Size.byte.bytes) = BitVec.ofInt 32 (byteAt s a).toInt := fun a => by
    rw [load_byte, signExtendByte_setWidth]
  have hhalf : ∀ a, signExtendHalf (s.mem.load a Size.half.bytes) = BitVec.ofInt 32 (halfAt s a).toInt := fun a => by
    rw [load_half, signExtendHalf_setWidth]
  exact ⟨loadTo_plain rd id (load_byte s _), loadTo_plain rd id (load_half s _), loadTo_plain rd id (load_word s _),
    loadTo_plain rd id (load_word s _), loadTo_plain rd id (load_byte s _), loadTo_plain rd signExtendByte (hbyte _),
    loadTo_plain rd id (load_half s _), loadTo_plain rd signExtendHalf (hhalf _), loadTo_plain rd id (load_word s _),
    loadTo_plain rd id (load_word s _)⟩

/-! ### Stores in plain memory (R159 to R164, R216) -/

theorem storeFrom_plain {s : State} {a : Word} {z : Size} (rd : BitVec 3) (ha : a.toNat % z.bytes = 0)
    (hc : s.accessClass .write a z = some .plain) :
    storeFrom rd z a s = .next ((s.storePlain a z (s.lo rd)).advance 2) := by
  rw [storeFrom, memWrite_plain (s.lo rd) ((aligned_iff a z).mpr ha) hc]
  rfl

/-- A store instruction whose meaning is `storeFrom` stores as the claim says. -/
theorem storesPlain_of_storeFrom {i : Instr} {s : State} {rd : BitVec 3} {a : Word} {z : Size}
    (h : exec i s = storeFrom rd z a s) : StoresPlain i s rd a z := fun ha hc =>
  ⟨_, h.trans (storeFrom_plain rd ha hc), byteAt_storePlain s a z (s.lo rd), sameOutside_storePlain s a z (s.lo rd),
    marked_storePlain s a z (s.lo rd), rfl⟩

theorem addrImm_toNat (s : State) (rn : BitVec 3) (u5 : BitVec 5) (scale : Nat) :
    (s.addrImm rn u5 (BitVec.ofNat 32 scale)).toNat = ((s.lo rn).toNat + u5.toNat * scale) % 2 ^ 32 := by
  rw [State.addrImm, BitVec.toNat_add, BitVec.toNat_mul, BitVec.toNat_ofNat, BitVec.toNat_setWidth,
    Nat.mod_eq_of_lt (a := u5.toNat) (by omega), Nat.mul_mod_mod, Nat.add_mod_mod]

/-- Settles O30: each instruction is `storeFrom` at its address. -/
theorem storesWritePlainMemory : Obligations.StoresWritePlainMemory := fun s _ rn _ u5 u8 =>
  ⟨storesPlain_of_storeFrom rfl, storesPlain_of_storeFrom rfl, storesPlain_of_storeFrom rfl,
    storesPlain_of_storeFrom rfl, storesPlain_of_storeFrom rfl, storesPlain_of_storeFrom rfl,
    storesPlain_of_storeFrom rfl, addrImm_toNat s rn u5, BitVec.toNat_add _ _, addrSp_toNat s u8⟩

end Sys2Proof.Claims

/-! PROOFS. Decoding of what was encoded (R80 to R89, R97), by the region of the opcode map an instruction is in. -/

namespace Sys2Proof.Claims

/-! ### Fields that cross a format's own -/

theorem extract_extract {w : Nat} (x : BitVec w) {s l t k : Nat} (h : t + k ≤ l) :
    (x.extractLsb' s l).extractLsb' t k = x.extractLsb' (s + t) k := by
  apply BitVec.eq_of_getLsbD_eq
  intro i hi
  simp [hi, show t + i < l by omega, Nat.add_assoc]

/-- The second halfword of `GOSUB n22` is the only one that begins 11111 (R88): no other begins with four ones. -/
theorem extract_11_5_ne {h : Half} (w : h.extractLsb' 12 4 ≠ 0b1111#4) : h.extractLsb' 11 5 ≠ 0b11111#5 := by
  intro h5
  rw [← extract_extract h (s := 11) (l := 5) (t := 1) (by decide), h5] at w
  exact w (by decide)

/-- Bit 8 of the list of `PUSH` and `POP` stands where the other formats have an operation's last bit (R82). -/
theorem formatPL_extract_8_3 (op : BitVec 7) (list : BitVec 9) :
    (formatPL op list).extractLsb' 8 3 = op.extractLsb' 0 2 ++ list.extractLsb' 8 1 := by
  apply BitVec.eq_of_getLsbD_eq
  intro i hi
  simp only [formatPL, BitVec.getLsbD_extractLsb', BitVec.getLsbD_append, hi, decide_true, Bool.true_and]
  obtain rfl | hpos : i = 0 ∨ 0 < i := by omega
  · simp
  · simp [show ¬ 8 + i < 9 by omega, show ¬ i < 1 by omega, show 8 + i - 9 = i - 1 by omega,
      show i - 1 < 2 by omega]

theorem formatPL_extract_8_3_cases (op : BitVec 7) (list : BitVec 9) :
    (formatPL op list).extractLsb' 8 3 = op.extractLsb' 0 2 ++ 0#1 ∨
      (formatPL op list).extractLsb' 8 3 = op.extractLsb' 0 2 ++ 1#1 := by
  rw [formatPL_extract_8_3]
  rcases (by decide : ∀ b : BitVec 1, b = 0#1 ∨ b = 1#1) (list.extractLsb' 8 1) with hb | hb <;> simp [hb]

/-- Only the all-zero fields of `Rd = Rm << u5` make the all-zero word, which is `NOP` (R89). -/
theorem formatSHI_eq_zero {u5 : BitVec 5} {rm rd : BitVec 3} (h : formatSHI 0 u5 rm rd = 0) :
    rd = 0 ∧ rm = 0 ∧ u5 = 0 :=
  ⟨(formatSHI_extract_0_3 0 u5 rm rd).symm.trans (congrArg (BitVec.extractLsb' 0 3) h),
    (formatSHI_extract_3_3 0 u5 rm rd).symm.trans (congrArg (BitVec.extractLsb' 3 3) h),
    (formatSHI_extract_6_5 0 u5 rm rd).symm.trans (congrArg (BitVec.extractLsb' 6 5) h)⟩

/-- The first halfword of `spec_reg = Rd` is that of no barrier and of no read: its bits [15:4] differ. -/
theorem formatBarrier_ne {op : BitVec 12} {h : Half} (hop : op ≠ h.extractLsb' 4 12) (x : BitVec 4) :
    formatBarrier op x ≠ h := fun e =>
  hop ((formatBarrier_extract_4_12 op x).symm.trans (congrArg (BitVec.extractLsb' 4 12) e))

theorem formatBarrier_extract_11_5 (op : BitVec 12) (x : BitVec 4) :
    (formatBarrier op x).extractLsb' 11 5 = op.extractLsb' 7 5 :=
  extract_append_high op x 7 5

/-! ### Regions of the opcode map (R88) -/

theorem decode16_dataProcessing {h : Half} (h5 : h.extractLsb' 11 5 = 0b01000#5) (h1 : h.extractLsb' 10 1 = 0#1) :
    decode16 h = some (decodeDataProcessing h) := by
  simp [decode16, h5, h1]

theorem decode16_highRegister {h : Half} (h5 : h.extractLsb' 11 5 = 0b01000#5) (h1 : h.extractLsb' 10 1 = 1#1) :
    decode16 h = decodeHighRegister h := by
  simp [decode16, h5, h1]

theorem decode16_misc {h : Half} (h5 : h.extractLsb' 11 5 = 0b10110#5) : decode16 h = decodeMisc h := by
  simp [decode16, h5]

theorem decode16_misc2 {h : Half} (h5 : h.extractLsb' 11 5 = 0b10111#5) : decode16 h = decodeMisc2 h := by
  simp [decode16, h5]

theorem decode16_condBranch {h : Half} (h5 : h.extractLsb' 11 5 = 0b11010#5 ∨ h.extractLsb' 11 5 = 0b11011#5) :
    decode16 h = some (decodeCondBranch h) := by
  rcases h5 with h5 | h5 <;> simp [decode16, h5]

/-! ### Reading back -/

/-- The encoding of an instruction is read back, as one halfword or as a pair whose first begins 11110 (R81, R88). -/
def ReadBack (i : Instr) : Prop :=
  (∃ h, encode i = [h] ∧ isWide h = false ∧ decode16 h = some i) ∨
  (∃ h h2, encode i = [h, h2] ∧ isWide h = true ∧ decode32 h h2 = some i)

theorem ReadBack.narrow {i : Instr} {h : Half} (e : encode i = [h]) (w : h.extractLsb' 11 5 ≠ 0b11110#5)
    (d : decode16 h = some i) : ReadBack i :=
  .inl ⟨h, e, by rw [isWide_eq]; exact beq_eq_false_iff_ne.mpr w, d⟩

theorem ReadBack.wide {i : Instr} {h h2 : Half} (e : encode i = [h, h2]) (w : h.extractLsb' 11 5 = 0b11110#5)
    (d : decode32 h h2 = some i) : ReadBack i :=
  .inr ⟨h, h2, e, by rw [isWide_eq]; exact beq_iff_eq.mpr w, d⟩

/-- Every well-formed instruction is read back from its encoding, region by region of the opcode map. -/
theorem decode_encode (i : Instr) (hw : i.wellFormed = true) : ReadBack i := by
  cases i
  case lslImm rd rm u5 =>
    have hne : formatSHI 0 u5 rm rd ≠ 0 := fun h => by
      obtain ⟨rfl, rfl, rfl⟩ := formatSHI_eq_zero h
      exact absurd hw (by decide)
    exact .narrow rfl (by simp) (by simp [decode16]; exact hne)
  case movImm | addImm8 | subImm8 | cmpImm | adr | addSp | ldrPc | ldrSp | strSp | addImm3 | subImm3 | addReg | subReg
      | lsrImm | asrImm | ldrbImm | ldrhImm | ldrImm | strbImm | strhImm | strImm | gotoImm | ldm | stm =>
    exact .narrow rfl (by simp) (by simp [decode16])
  case ldrbReg | ldrsbReg | ldrhReg | ldrshReg | ldrReg | strbReg | strhReg | strReg =>
    exact .narrow rfl (by simp) (by simp [decode16, decodeRegisterOffset])
  case andReg | eorReg | lslReg | lsrReg | asrReg | adc | sbc | ror | tst | neg | cmpReg | cmn | orrReg | mul | bic
      | mvn =>
    exact .narrow rfl (by simp) ((decode16_dataProcessing (by simp) (by simp)).trans (by simp [decodeDataProcessing]))
  case addHi rd rm | cmpHi rd rm | movReg rd rm =>
    exact .narrow rfl (by simp) ((decode16_highRegister (by simp) (by simp)).trans
      (by simp [decodeHighRegister, splitRegister, append_extract_eq (a := 1) (b := 3)]))
  case gotoReg rm =>
    have h14 : rm ≠ 14#4 := by simpa [Instr.wellFormed] using hw
    exact .narrow rfl (by simp) ((decode16_highRegister (by simp) (by simp)).trans (by simp [decodeHighRegister, h14]))
  case gosubReg =>
    exact .narrow rfl (by simp) ((decode16_highRegister (by simp) (by simp)).trans (by simp [decodeHighRegister]))
  case ifZero n8 | ifNonZero n8 =>
    exact .narrow rfl (formatBC_narrow _ n8) ((decode16_condBranch (formatBC_top _ n8)).trans
      (by simp [decodeCondBranch]))
  case ifCond cond n8 =>
    have hcond : cond ≠ 0#4 ∧ cond ≠ 1#4 ∧ cond ≠ 15#4 := by simpa [Instr.wellFormed, and_assoc] using hw
    -- The default row of the match is the one left: `simp` finds the three inequalities in the context.
    obtain ⟨h0, h1, h15⟩ := hcond
    exact .narrow rfl (formatBC_narrow _ n8) ((decode16_condBranch (formatBC_top _ n8)).trans
      (by simp [decodeCondBranch]))
  case svc =>
    exact .narrow rfl (by simp) ((decode16_condBranch (by simp)).trans (by simp [decodeCondBranch]))
  case push list =>
    exact .narrow rfl (by simp) ((decode16_misc (by simp)).trans (by
      rcases formatPL_extract_8_3_cases 0b1011010#7 list with h | h <;> simp [decodeMisc, h]))
  case pop list =>
    exact .narrow rfl (by simp) ((decode16_misc2 (by simp)).trans (by
      rcases formatPL_extract_8_3_cases 0b1011110#7 list with h | h <;> simp [decodeMisc2, h]))
  case spAdd | spSub | sxtb | sxth | uxtb | uxth =>
    exact .narrow rfl (by simp) ((decode16_misc (by simp)).trans (by simp [decodeMisc]))
  case rev | rev16 | revsh | bkpt =>
    exact .narrow rfl (by simp) ((decode16_misc2 (by simp)).trans (by simp [decodeMisc2]))
  case nop | ret | cpsid | cpsie | wfi | sev | wfe | yieldHint => exact .narrow rfl (by decide) (by decide)
  case gosubImm n22 =>
    exact .wide rfl (by simp) (by simp [decode32, append_extract_eq (a := 11) (b := 11)])
  case dmb option | dsb option | isb option =>
    exact .wide rfl (by decide) (by simp [decode32, formatBarrier_extract_11_5])
  case mrs rd sysm =>
    have h5 : (formatMrs 0b1000#4 rd sysm).extractLsb' 11 5 ≠ 0b11111#5 := extract_11_5_ne (by simp)
    exact .wide rfl (by decide) (by simp [decode32, h5])
  case msr rn sysm =>
    have hbarrier := formatBarrier_ne (op := 0xF38#12) (h := 0xF3BF#16) (by decide) rn
    have hread := formatBarrier_ne (op := 0xF38#12) (h := 0xF3EF#16) (by decide) rn
    exact .wide rfl (by simp [formatBarrier_extract_11_5]) (by simp [decode32, hbarrier, hread])

end Sys2Proof.Claims

/-! PROOFS. The entry of an exception whose frame and vector are plain memory, and the traps that become a HardFault
by it (R292, R306, R309). -/

namespace Sys2Proof.Claims
open Sys2Proof.Machine

/-! ### The entry of an exception (R309) -/

theorem usesPsp_iff (s : State) : s.usesPsp = true ↔ s.mode = .thread ∧ s.spsel = true := by
  simp [State.usesPsp]

theorem excReturn_eq (s : State) :
    s.excReturn = if s.mode = .handler then 0xFFFFFFF1 else if s.spsel then 0xFFFFFFFD else 0xFFFFFFF9 := by
  unfold State.excReturn State.usesPsp
  cases s.mode <;> rfl

theorem frameAddr_eq_frameOf (s : State) : s.frameAddr = frameOf s := rfl

/-- With bits [1:0] of `SP` clear the frame stands at a word's address. -/
theorem aligned_frameAddr {s : State} (h : s.sp &&& 3#32 = 0) : aligned s.frameAddr .word = true := by
  have h3 : s.sp.toNat % 4 = 0 := by
    have hand : s.sp.toNat &&& 3 = 0 := (BitVec.toNat_and s.sp 3#32).symm.trans (congrArg BitVec.toNat h)
    exact (Nat.and_two_pow_sub_one_eq_mod s.sp.toNat 2).symm.trans hand
  have hsub : alignWord (s.sp - 0x20) = s.sp - 0x20 := by
    rw [alignWord_eq_iff, BitVec.toNat_sub]
    have h20 : (0x20 : Word).toNat = 32 := rfl
    omega
  exact (aligned_iff _ _).mpr ((alignWord_eq_iff _).mp (clearBit2_aligned hsub))

theorem aligned_vector (n : Nat) : aligned (BitVec.ofNat 32 (4 * n)) .word = true := by
  rw [aligned_iff, BitVec.toNat_ofNat, Size.bytes]
  omega

theorem bitAt_getLsbD (b : Bool) (place i : Nat) :
    (bitAt b place).getLsbD i = (decide (i < 32) && decide (i = place) && b) := by
  rw [Bool.eq_iff_iff]
  cases b
  · simp [bitAt]
  · simp only [bitAt, if_true, BitVec.getLsbD_shiftLeft, BitVec.getLsbD_one, Nat.ofNat_pos, decide_true, Bool.true_and,
      Bool.and_true, Bool.and_eq_true, Bool.not_eq_true', decide_eq_true_eq, decide_eq_false_iff_not]
    omega

/-- The word that entry stacks is the concatenation of its fields. -/
theorem xpsr_eq_stackedPsr (s : State) : s.xpsr (s.sp.getLsbD 2) = stackedPsr s := by
  apply BitVec.eq_of_getLsbD_eq
  intro i hi
  simp only [State.xpsr, Flags.toWord, stackedPsr, BitVec.getLsbD_or, BitVec.getLsbD_append, BitVec.getLsbD_setWidth,
    bitAt_getLsbD, BitVec.getLsbD_ofBool, BitVec.getLsbD_zero]
  interval_cases i <;> simp

/-- The words of a frame, read back from the memory they were stored in. -/
theorem frameStored_of_loads {s t : State} {ret : Word}
    (h : ∀ k (hk : k < (s.frameWords ret).length),
      t.mem.load (s.frameAddr + BitVec.ofNat 32 (4 * k)) 4 = (s.frameWords ret)[k]) : FrameStored s t ret := by
  have hword : ∀ k (hk : k < 8), wordAt t (frameOf s + BitVec.ofNat 32 (4 * k)) = (s.frameWords ret)[k]'hk :=
    fun k hk => (load_word t _).symm.trans (h k hk)
  have h0 := hword 0 (by decide)
  rw [BitVec.add_zero] at h0
  exact ⟨h0, hword 1 (by decide), hword 2 (by decide), hword 3 (by decide), hword 4 (by decide), hword 5 (by decide),
    hword 6 (by decide), (hword 7 (by decide)).trans (xpsr_eq_stackedPsr s)⟩

/-- An entry whose frame and vector are plain memory: only memory and the marks have changed when the handler begins. -/
theorem exceptionEntry_plain {s : State} {n : Nat} (ret : Word) (h : EntryPossible s n) :
    ∃ m d, exceptionEntry n ret s =
        .ok () (State.enterHandler { s with mem := m, dirty := d } s n (m.load (BitVec.ofNat 32 (4 * n)) 4)) ∧
      FrameStored s { s with mem := m } ret ∧ sameOutside s { s with mem := m } (frameOf s) 32 := by
  obtain ⟨hsp, hframe, hvector⟩ := h
  obtain ⟨m, d, hwrite, hloads, hother, -⟩ :=
    writeWords_plain s.frameAddr (s.frameWords ret) s (by simp [State.frameWords]) (.inl (aligned_frameAddr hsp)) hframe
  have hread := memRead_plain (s := { s with mem := m, dirty := d }) (aligned_vector n) hvector
  refine ⟨m, d, ?_, frameStored_of_loads hloads, hother⟩
  simp only [exceptionEntry, hwrite, hread]
  rfl

/-- The handler's state, in the words of the claim. -/
theorem enterHandler_entered {s : State} {m : Memory} {d : List Nat} {n : Nat} {ret : Word}
    (hframe : FrameStored s { s with mem := m } ret) (hother : sameOutside s { s with mem := m } (frameOf s) 32) :
    Entered s (State.enterHandler { s with mem := m, dirty := d } s n (m.load (BitVec.ofNat 32 (4 * n)) 4)) n ret := by
  refine ⟨hframe, hother, ?_⟩
  have hvector : m.load (BitVec.ofNat 32 (4 * n)) 4 = wordAt { s with mem := m } (BitVec.ofNat 32 (4 * n)) :=
    load_word { s with mem := m } _
  rw [hvector]
  simp only [State.enterHandler, excReturn_eq, usesPsp_iff, frameAddr_eq_frameOf]
  rfl

theorem takeException_entered {s : State} {n : Nat} (ret : Word) (h : EntryPossible s n) :
    Entered s (takeException n ret s) n ret := by
  obtain ⟨m, d, hentry, hframe, hother⟩ := exceptionEntry_plain ret h
  rw [takeException, hentry]
  exact enterHandler_entered hframe hother

/-! ### Traps (R292, R306) -/

theorem hardFault_entered {s : State} (ret : Word) (hp : -1 < s.execPriority) (h : EntryPossible s 3) :
    Entered s (hardFault ret s) 3 ret := by
  rw [hardFault, if_neg (by omega)]
  exact takeException_entered ret h

/-- A trap that is a HardFault returning to its own instruction, reported there. -/
theorem traps_raise {s : State} {x : Trap} (hx : takeTrap x s = hardFault s.pc s) :
    Traps (raise x s) (x.toFault s) s s.pc := by
  constructor
  · intro hm
    rw [raise, hm]
  · intro hm hp he
    exact ⟨hardFault s.pc s, by rw [raise, hm, hx], hardFault_entered s.pc hp he⟩

theorem traps_busFault (s : State) (a : Word) (k : AccessKind) :
    Traps (raise (.busFault a k) s) (.busFault a k s.pc s) s s.pc :=
  traps_raise rfl

end Sys2Proof.Claims

/-! PROOFS. The step (R41, R57, R67, R81, R294, R300, R332): the inputs of a boundary, the fetch of an instruction from
its bytes, and the fetches that stop. -/

namespace Sys2Proof.Claims
open Sys2Proof.Machine

/-! ### The inputs of a boundary (R41, R300, R301, R322) -/

/-- What SysTick's clocks at a boundary do (R322): with the timer disabled nothing; else some number of clocks pass, and
a count to 0 may make exception 15 pending, which with `SEVONPEND` is an event (R301). -/
def Ticked (s t : State) : Prop :=
  t.env = s.env ∧ t.wakeUp = s.wakeUp ∧
  (t.eventReg = true ↔ s.eventReg = true ∨ s.scs.sevOnPend = true ∧ PendsMore s.scs t.scs) ∧
  (s.scs.sysTick.enable = false →
    t.scs.sysTick = s.scs.sysTick ∧ t.scs.sysTickPending = s.scs.sysTickPending) ∧
  (s.scs.sysTick.enable = true → ∃ n : Nat,
    t.scs.sysTick = (SysTick.clocks n s.scs.sysTick).1 ∧
    t.scs.sysTickPending =
      (s.scs.sysTickPending || ((SysTick.clocks n s.scs.sysTick).2 && s.scs.sysTick.tickInt))) ∧
  t.scs = { s.scs with sysTick := t.scs.sysTick, sysTickPending := t.scs.sysTickPending }

theorem sysTickRun_ticked (s : State) : Ticked s s.sysTickRun := by
  rcases s.sysTickRun_cases with ⟨hoff, hrun⟩ | ⟨hon, n, u, rfl, hrun⟩
  · rw [hrun]
    exact ⟨rfl, rfl, by simp [PendsMore.irrefl], fun _ => ⟨rfl, rfl⟩, fun hon => by simp [hoff] at hon, rfl⟩
  · rw [hrun]
    exact ⟨rfl, rfl, State.withPending_event _ _ (Bool.or_false _), fun hoff => by simp [hon] at hoff,
      fun _ => ⟨n, rfl, rfl⟩, by simp⟩

theorem Ticked.grow {s t : State} (h : Ticked s t) : PendsGrow s.scs t.scs := by
  obtain ⟨-, -, -, hoff, hon, hscs⟩ := h
  refine ⟨fun k _ => by rw [hscs]; exact id, by rw [hscs]; exact id, fun hp => ?_⟩
  cases he : s.scs.sysTick.enable with
  | false => rw [(hoff he).2, hp]
  | true =>
    obtain ⟨n, -, hn⟩ := hon he
    rw [hn, hp, Bool.true_or]

/-- A boundary is its inputs (`Received`), then SysTick's clocks (`Ticked`). -/
theorem takesInputs (s : State) : TakesInputs s := by
  obtain ⟨t, hreceived, hb⟩ := s.boundary_eq
  have hticked : Ticked t s.boundary := hb ▸ sysTickRun_ticked t
  have hmore : pendsMore s s.boundary ↔ PendsMore s.scs t.scs ∨ PendsMore t.scs s.boundary.scs :=
    PendsMore.trans_iff hreceived.grow hticked.grow
  obtain ⟨henv, hwake, hirq, hnmi, hreset, hevent, hscs⟩ := hreceived
  obtain ⟨henv', hwake', hevent', hoff, hon, hscs'⟩ := hticked
  have htick : t.scs.sysTick = s.scs.sysTick := by rw [hscs]
  have hpend : t.scs.sysTickPending = s.scs.sysTickPending := by rw [hscs]
  have hsev : t.scs.sevOnPend = s.scs.sevOnPend := by rw [hscs]
  have hirq' : s.boundary.scs.irqPending = t.scs.irqPending := by rw [hscs']
  have hnmi' : s.boundary.scs.nmiPending = t.scs.nmiPending := by rw [hscs']
  have hreset' : s.boundary.scs.resetRequest = t.scs.resetRequest := by rw [hscs']
  rw [htick, hpend] at hoff hon
  refine ⟨henv'.trans henv, ?wake, fun k => ?irq, ?nmi, ?reset, ?event, hoff, hon, ?scs⟩
  case wake => rw [hwake', hwake]; simp
  case irq => rw [hirq']; exact hirq k
  case nmi => rw [hnmi']; exact hnmi
  case reset => rw [hreset']; exact hreset
  case event =>
    rw [hevent', hevent, hsev, hmore, and_or_left, or_assoc, or_assoc]
  case scs =>
    rw [hirq', hnmi', hreset']
    exact hscs'.trans (by rw [hscs])

theorem sysTickRun_disabled {s : State} (h : s.scs.sysTick.enable = false) : s.sysTickRun = s := by
  rcases s.sysTickRun_cases with ⟨-, hrun⟩ | ⟨hon, -⟩
  · exact hrun
  · rw [h] at hon; cases hon

/-- A boundary without inputs and with the timer disabled changes nothing. -/
theorem boundary_quiet {s : State} (h : s.quiet) : s.boundary = s := by
  obtain ⟨henv, hwake, hoff⟩ := h
  have hs : { s with wakeUp := false } = s := by rw [← hwake]
  unfold State.boundary
  split
  · rw [hs]
    exact sysTickRun_disabled hoff
  · next hcons => rw [henv] at hcons; cases hcons

/-! ### The fetch (R57, R67, R81) -/

theorem aligned_half {a : Word} (h : clearBit0 a = a) : aligned a .half = true :=
  (aligned_iff a .half).mpr ((clearBit0_eq_iff a).mp h)

/-- The second halfword's address is even where the first's is. -/
theorem clearBit0_add_two {a : Word} (h : clearBit0 a = a) : clearBit0 (a + 2) = a + 2 := by
  rw [clearBit0_eq_iff] at h ⊢
  have h2 : (2 : Word).toNat = 2 := rfl
  rw [BitVec.toNat_add]
  omega

theorem fetch_half {s : State} {a : Word} (ha : clearBit0 a = a) (hc : s.accessClass .fetch a .half = some .plain) :
    memRead .fetch a .half s = .ok ((halfAt s a).setWidth 32) s := by
  rw [memRead_plain (aligned_half ha) hc, load_half]

theorem fetch_half_unadmitted {s : State} {a : Word} (ha : clearBit0 a = a)
    (hc : s.accessClass .fetch a .half = none) : memRead .fetch a .half s = .trap (.busFault a .fetch) s := by
  simp [memRead, aligned_half ha, hc]

theorem storedCode_iff (s : State) (a : Word) :
    s.storedCode a = true ↔ a.toNat ∈ s.dirty ∨ (a + 1).toNat ∈ s.dirty := by
  simp [State.storedCode]

theorem setWidth_half (h : Half) : (h.setWidth 32).setWidth 16 = h := by
  rw [BitVec.setWidth_setWidth_of_le _ (by decide), BitVec.setWidth_eq]

section Fetch

variable {s : State} (heven : clearBit0 s.pc = s.pc)

include heven

theorem fetchInstr_unadmitted (hc : s.accessClass .fetch s.pc .half = none) :
    fetchInstr s = .trap (.busFault s.pc .fetch) s := by
  simp [fetchInstr, fetch_half_unadmitted heven hc]

variable (hc : s.accessClass .fetch s.pc .half = some .plain)

include hc

theorem fetchInstr_stored (hd : s.storedCode s.pc = true) : fetchInstr s = .refused .storedCodeFetch := by
  simp [fetchInstr, fetch_half heven hc, hd]

variable (hd : s.storedCode s.pc = false)

include hd

theorem fetchInstr_narrow (hw : isWide (halfAt s s.pc) = false) : fetchInstr s = .ok (halfAt s s.pc) none s := by
  simp only [fetchInstr, fetch_half heven hc, hd, setWidth_half, hw, Bool.false_eq_true, if_false]

variable (hw : isWide (halfAt s s.pc) = true)

include hw

theorem fetchInstr_second_unadmitted (hc2 : s.accessClass .fetch (s.pc + 2) .half = none) :
    fetchInstr s = .trap (.busFault (s.pc + 2) .fetch) s := by
  simp only [fetchInstr, fetch_half heven hc, hd, setWidth_half, hw,
    fetch_half_unadmitted (clearBit0_add_two heven) hc2, if_true, Bool.false_eq_true, if_false]

variable (hc2 : s.accessClass .fetch (s.pc + 2) .half = some .plain)

include hc2

theorem fetchInstr_second_stored (hd2 : s.storedCode (s.pc + 2) = true) :
    fetchInstr s = .refused .storedCodeFetch := by
  simp only [fetchInstr, fetch_half heven hc, hd, setWidth_half, hw, fetch_half (clearBit0_add_two heven) hc2, hd2,
    if_true, Bool.false_eq_true, if_false]

theorem fetchInstr_wide (hd2 : s.storedCode (s.pc + 2) = false) :
    fetchInstr s = .ok (halfAt s s.pc) (some (halfAt s (s.pc + 2))) s := by
  simp only [fetchInstr, fetch_half heven hc, hd, setWidth_half, hw, fetch_half (clearBit0_add_two heven) hc2, hd2,
    if_true, Bool.false_eq_true, if_false]

end Fetch

/-! ### An instruction fetched from its bytes -/

theorem decode_narrow {h : Half} {i : Instr} (hw : isWide h = false) (hd : decode16 h = some i) :
    decode h none = .ok i := by
  simp [decode, hw, hd]

theorem decode_wide {h h2 : Half} {i : Instr} (hw : isWide h = true) (hd : decode32 h h2 = some i) :
    decode h (some h2) = .ok i := by
  simp [decode, hw, hd]

theorem instrOf_of_decode {s : State} {h : Half} {o : Option Half} {i : Instr} (hd : decode h o = .ok i)
    (ha : s.cfg.admits i = true) : s.instrOf h o = some i := by
  simp [State.instrOf, hd, ha]

/-- The bytes from an address are those of a list, and the program has stored none of them. -/
def CodeAt (s : State) (a : Word) (bytes : List Byte) : Prop :=
  ∀ k b, bytes[k]? = some b → byteAt s (a + BitVec.ofNat 32 k) = b ∧ (a + BitVec.ofNat 32 k).toNat ∉ s.dirty

theorem CodeAt.append {s : State} {a : Word} {bs cs : List Byte} (h : CodeAt s a (bs ++ cs)) :
    CodeAt s a bs ∧ CodeAt s (a + BitVec.ofNat 32 bs.length) cs := by
  constructor
  · intro k b hk
    have hlt : k < bs.length := (List.getElem?_eq_some_iff.mp hk).1
    exact h k b (by rw [List.getElem?_append_left hlt, hk])
  · intro k b hk
    rw [add_wordUp]
    exact h _ b (by rw [List.getElem?_append_right (Nat.le_add_right _ _), Nat.add_sub_cancel_left, hk])

/-- Where the two bytes of a halfword stand, unmarked, the halfword reads there and is no stored code. -/
theorem CodeAt.half {s : State} {a : Word} {h : Half} (hcode : CodeAt s a (halfBytes h)) :
    halfAt s a = h ∧ s.storedCode a = false := by
  obtain ⟨hlow, hlowUnmarked⟩ := hcode 0 _ rfl
  obtain ⟨hhigh, hhighUnmarked⟩ := hcode 1 _ rfl
  rw [BitVec.add_zero] at hlow hlowUnmarked
  constructor
  · rw [halfAt, hlow]
    exact (congrArg (· ++ _) hhigh).trans (halfOfBytes_halfBytes h)
  · rw [← Bool.not_eq_true, storedCode_iff]
    exact not_or.mpr ⟨hlowUnmarked, hhighUnmarked⟩

/-- The fetch of an instruction whose bytes stand at `pc` gives halfwords that decode to it. -/
theorem fetchInstr_of_code {s : State} {i : Instr} (hwf : i.wellFormed = true) (heven : clearBit0 s.pc = s.pc)
    (hcode : CodeAt s s.pc (encodeBytes i))
    (hplain : ∀ k < (encode i).length, s.accessClass .fetch (s.pc + BitVec.ofNat 32 (2 * k)) .half = some .plain) :
    ∃ h o, fetchInstr s = .ok h o s ∧ decode h o = .ok i := by
  have hc : 0 < (encode i).length → s.accessClass .fetch s.pc .half = some .plain := fun hlen => by
    simpa using hplain 0 hlen
  unfold encodeBytes at hcode
  rcases decode_encode i hwf with ⟨h, he, hw, hd⟩ | ⟨h, h2, he, hw, hd⟩
  · rw [he] at hcode hc
    obtain ⟨rfl, hunmarked⟩ := CodeAt.half (h := h) (by simpa using hcode)
    exact ⟨_, none, fetchInstr_narrow heven (hc (by simp)) hunmarked hw, decode_narrow hw hd⟩
  · rw [he] at hcode hc hplain
    obtain ⟨hfirst, hsecond⟩ := CodeAt.append (bs := halfBytes h) (cs := halfBytes h2) (by simpa using hcode)
    obtain ⟨rfl, hunmarked⟩ := hfirst.half
    obtain ⟨rfl, hunmarked2⟩ := hsecond.half
    exact ⟨_, some _, fetchInstr_wide heven (hc (by simp)) hunmarked hw (hplain 1 (by simp)) hunmarked2,
      decode_wide hw hd⟩

/-! ### The step -/

theorem step_eq_runInstr {s : State} (h : s.boundary.runsNext) : step s = s.boundary.runInstr := by
  obtain ⟨hreset, hlockup, hwaiting, -, htake⟩ := h
  have hnone : (if s.boundary.cfg.trapModel = .armv6m then s.boundary.exceptionToTake else none) = none := by
    split
    · next hm => exact htake hm
    · rfl
  simp [step, State.afterBoundary, hreset, hlockup, hwaiting, hnone]

theorem epsrT_of_runsNext {s : State} (h : s.runsNext) : s.epsrT = true := by
  obtain ⟨-, -, -, hT, -⟩ := h
  exact hT

section RunInstr

variable {s : State} (hT : s.epsrT = true)

include hT

theorem runInstr_ok {h : Half} {o : Option Half} {i : Instr} (hf : fetchInstr s = .ok h o s)
    (hi : s.instrOf h o = some i) : s.runInstr = exec i s := by
  simp [State.runInstr, hT, hf, hi]

theorem runInstr_trap {x : Trap} (hf : fetchInstr s = .trap x s) : s.runInstr = raise x s := by
  simp [State.runInstr, hT, hf]

theorem runInstr_refused {r : Refusal} (hf : fetchInstr s = .refused r) : s.runInstr = .refused r := by
  simp [State.runInstr, hT, hf]

end RunInstr

/-- Settles O5: the boundary by `takesInputs`, `boundary_quiet` and `State.boundary_keeps`; then the step is the fetch,
which reads the instruction from its bytes, or stops. -/
theorem stepRunsTheDecodedInstruction : Obligations.StepRunsTheDecodedInstruction := by
  refine ⟨?runs, State.boundary_keeps, takesInputs, fun _ => boundary_quiet, ?stops⟩
  case runs =>
    intro s i hnext hwf hadmits heven hcode hplain
    have hT : s.boundary.epsrT = true := epsrT_of_runsNext hnext
    obtain ⟨h, o, hfetch, hdecode⟩ := fetchInstr_of_code hwf heven hcode hplain
    rw [step_eq_runInstr hnext, runInstr_ok hT hfetch (instrOf_of_decode hdecode hadmits)]
  case stops =>
    intro s hnext heven b stored
    have hT : b.epsrT = true := epsrT_of_runsNext hnext
    have hstored : ∀ a, stored a → b.storedCode a = true := fun a => (storedCode_iff b a).mpr
    rw [step_eq_runInstr hnext]
    refine ⟨fun hc => ?first, fun hc => ⟨fun hd => ?firstStored, fun hd hw => ?second⟩⟩
    case first =>
      rw [runInstr_trap hT (fetchInstr_unadmitted heven hc)]
      exact traps_busFault b _ _
    case firstStored => exact runInstr_refused hT (fetchInstr_stored heven hc (hstored _ hd))
    case second =>
      have hunmarked : b.storedCode b.pc = false := Bool.eq_false_iff.mpr (mt (storedCode_iff b b.pc).mp hd)
      refine ⟨fun hc2 => ?_, fun hc2 hd2 => ?_⟩
      · rw [runInstr_trap hT (fetchInstr_second_unadmitted heven hc hunmarked hw hc2)]
        exact traps_busFault b _ _
      · exact runInstr_refused hT (fetchInstr_second_stored heven hc hunmarked hw hc2 (hstored _ hd2))

end Sys2Proof.Claims

/-! PROOFS. The encoding (R80 to R89, R95, R97): decoding of bytes, encoding of what the decoder reads, and the
halfwords that no instruction has. -/

namespace Sys2Proof.Claims
open Sys2Proof.Machine

/-! ### Decoding inverts encoding -/

/-- Settles O1: each word is evaluated. -/
theorem specExampleWordsDecode : Obligations.SpecExampleWordsDecode := by
  unfold Obligations.SpecExampleWordsDecode
  decide

/-- Settles O2: the halfwords of `decode_encode`, given as their bytes. -/
theorem decodingInvertsEncoding : Obligations.DecodingInvertsEncoding := by
  intro i rest hwf
  rw [encodeBytes]
  rcases decode_encode i hwf with ⟨h, he, hw, hd⟩ | ⟨h, h2, he, hw, hd⟩
  · rw [he]
    simpa using decodeBytes_narrow h rest i hw hd
  · rw [he]
    simpa using decodeBytes_wide h h2 rest i hw hd

/-! ### A halfword is its fields -/

/-- A field, as arithmetic on the whole: the form in which overlapping fields of one halfword are compared. -/
theorem extract_eq_iff {w s l : Nat} (x : BitVec w) (v : BitVec l) :
    x.extractLsb' s l = v ↔ x.toNat / 2 ^ s % 2 ^ l = v.toNat := by
  rw [← BitVec.toNat_inj, BitVec.extractLsb'_toNat, Nat.shiftRight_eq_div_pow]

/-- Two neighbouring fields are one field. -/
theorem extract_append_extract {w : Nat} (x : BitVec w) (s a b : Nat) :
    x.extractLsb' (s + b) a ++ x.extractLsb' s b = x.extractLsb' s (a + b) :=
  BitVec.extractLsb'_append_extractLsb'_eq_extractLsb' rfl

section Fields

variable {h : Half}

theorem formatSHI_fields {op : BitVec 5} (e : h.extractLsb' 11 5 = op) :
    formatSHI op (h.extractLsb' 6 5) (h.extractLsb' 3 3) (h.extractLsb' 0 3) = h := by
  rw [formatSHI, ← e, extract_append_extract h 6 5 5, extract_append_extract h 3 10 3, extract_append_extract h 0 13 3]
  exact extract_all h

theorem formatMI5_fields {op : BitVec 5} (e : h.extractLsb' 11 5 = op) :
    formatMI5 op (h.extractLsb' 6 5) (h.extractLsb' 3 3) (h.extractLsb' 0 3) = h :=
  formatSHI_fields e

theorem formatR3_fields {op : BitVec 7} (e : h.extractLsb' 9 7 = op) :
    formatR3 op (h.extractLsb' 6 3) (h.extractLsb' 3 3) (h.extractLsb' 0 3) = h := by
  rw [formatR3, ← e, extract_append_extract h 6 7 3, extract_append_extract h 3 10 3, extract_append_extract h 0 13 3]
  exact extract_all h

theorem formatI3_fields {op : BitVec 7} (e : h.extractLsb' 9 7 = op) :
    formatI3 op (h.extractLsb' 6 3) (h.extractLsb' 3 3) (h.extractLsb' 0 3) = h :=
  formatR3_fields e

theorem formatI8_fields {op : BitVec 5} (e : h.extractLsb' 11 5 = op) :
    formatI8 op (h.extractLsb' 8 3) (h.extractLsb' 0 8) = h := by
  rw [formatI8, ← e, extract_append_extract h 8 5 3, extract_append_extract h 0 8 8]
  exact extract_all h

theorem formatML_fields {op : BitVec 5} (e : h.extractLsb' 11 5 = op) :
    formatML op (h.extractLsb' 8 3) (h.extractLsb' 0 8) = h :=
  formatI8_fields e

theorem formatR2_fields {op : BitVec 10} (e : h.extractLsb' 6 10 = op) :
    formatR2 op (h.extractLsb' 3 3) (h.extractLsb' 0 3) = h := by
  rw [formatR2, ← e, extract_append_extract h 3 10 3, extract_append_extract h 0 13 3]
  exact extract_all h

theorem formatHI_fields {op : BitVec 8} (e : h.extractLsb' 8 8 = op) :
    formatHI op (h.extractLsb' 3 4) (splitRegister h) = h := by
  have hhigh : (splitRegister h).extractLsb' 3 1 = h.extractLsb' 7 1 :=
    (extract_append_high (h.extractLsb' 7 1) (h.extractLsb' 0 3) 0 1).trans (extract_all _)
  have hlow : (splitRegister h).extractLsb' 0 3 = h.extractLsb' 0 3 :=
    (extract_append_low (h.extractLsb' 7 1) (h.extractLsb' 0 3) 0 3 (by decide)).trans (extract_all _)
  rw [formatHI, hhigh, hlow, ← e, extract_append_extract h 7 8 1, extract_append_extract h 3 9 4,
    extract_append_extract h 0 13 3]
  exact extract_all h

theorem formatBXF_fields {op : BitVec 9} (e : h.extractLsb' 7 9 = op) (z : h.extractLsb' 0 3 = 0) :
    formatBXF op (h.extractLsb' 3 4) = h := by
  have z' : 0b000#3 = h.extractLsb' 0 3 := z.symm
  rw [formatBXF, ← e, z', extract_append_extract h 3 9 4, extract_append_extract h 0 13 3]
  exact extract_all h

theorem formatB11_fields {op : BitVec 5} (e : h.extractLsb' 11 5 = op) : formatB11 op (h.extractLsb' 0 11) = h := by
  rw [formatB11, ← e, extract_append_extract h 0 5 11]
  exact extract_all h

theorem formatBC_fields {cond : BitVec 4} (t : h.extractLsb' 12 4 = 0b1101#4) (e : h.extractLsb' 8 4 = cond) :
    formatBC cond (h.extractLsb' 0 8) = h := by
  rw [formatBC, ← t, ← e, extract_append_extract h 8 4 4, extract_append_extract h 0 8 8]
  exact extract_all h

theorem formatX8_fields {op : BitVec 8} (e : h.extractLsb' 8 8 = op) : formatX8 op (h.extractLsb' 0 8) = h := by
  rw [formatX8, ← e, extract_append_extract h 0 8 8]
  exact extract_all h

theorem formatPL_fields {op : BitVec 7} (e : h.extractLsb' 9 7 = op) : formatPL op (h.extractLsb' 0 9) = h := by
  rw [formatPL, ← e, extract_append_extract h 0 7 9]
  exact extract_all h

theorem formatS7_fields {op : BitVec 9} (e : h.extractLsb' 7 9 = op) : formatS7 op (h.extractLsb' 0 7) = h := by
  rw [formatS7, ← e, extract_append_extract h 0 9 7]
  exact extract_all h

theorem formatBarrier_fields {op : BitVec 12} (e : h.extractLsb' 4 12 = op) :
    formatBarrier op (h.extractLsb' 0 4) = h := by
  rw [formatBarrier, ← e, extract_append_extract h 0 12 4]
  exact extract_all h

theorem formatMrs_fields {op : BitVec 4} (e : h.extractLsb' 12 4 = op) :
    formatMrs op (h.extractLsb' 8 4) (h.extractLsb' 0 8) = h := by
  rw [formatMrs, ← e, extract_append_extract h 8 4 4, extract_append_extract h 0 8 8]
  exact extract_all h

end Fields

/-! ### Encoding inverts decoding -/

/-- An instruction is well formed and these are its halfwords. -/
def Encodes (i : Instr) (hs : List Half) : Prop := i.wellFormed = true ∧ encode i = hs

theorem Encodes.single {i : Instr} {x h : Half} (hwf : i.wellFormed = true) (he : encode i = [x]) (hx : x = h) :
    Encodes i [h] :=
  ⟨hwf, by rw [he, hx]⟩

theorem Encodes.pair {i : Instr} {x x2 h h2 : Half} (hwf : i.wellFormed = true) (he : encode i = [x, x2]) (hx : x = h)
    (hx2 : x2 = h2) : Encodes i [h, h2] :=
  ⟨hwf, by rw [he, hx, hx2]⟩

/-- The opcode of a format, from the parts of it that the decoder looks at one after the other. -/
theorem extract_of_parts {w s a b : Nat} {x : BitVec w} {u : BitVec a} {v : BitVec b} {op : BitVec (a + b)}
    (hu : x.extractLsb' (s + b) a = u) (hv : x.extractLsb' s b = v) (hop : u ++ v = op) :
    x.extractLsb' s (a + b) = op := by
  rw [← extract_append_extract, hu, hv, hop]

/-- A region of the map by `h[15:12]` is two neighbouring values of `h[15:11]`. -/
theorem extract_12_4 {h : Half} {op5 : BitVec 5} {op4 : BitVec 4} (h5 : h.extractLsb' 11 5 = op5)
    (hop : op5.extractLsb' 1 4 = op4) : h.extractLsb' 12 4 = op4 := by
  rw [← extract_extract h (s := 11) (l := 5) (t := 1) (by decide), h5, hop]

section Reads

variable {h : Half} {i : Instr}

theorem decodeDataProcessing_encodes (h6 : h.extractLsb' 10 6 = 0b010000#6) :
    Encodes (decodeDataProcessing h) [h] := by
  have hR2 : ∀ {op4 op}, h.extractLsb' 6 4 = op4 → 0b010000#6 ++ op4 = op →
      formatR2 op (h.extractLsb' 3 3) (h.extractLsb' 0 3) = h := fun h4 hop =>
    formatR2_fields (extract_of_parts h6 h4 hop)
  unfold decodeDataProcessing
  split
  case h_16 =>
    have h4 : h.extractLsb' 6 4 = 0b1111#4 := by simp only [imp_false] at *; bv_omega
    exact .single rfl rfl (hR2 h4 rfl)
  all_goals
    next h4 => exact .single rfl rfl (hR2 h4 rfl)

theorem decodeRegisterOffset_encodes (h4 : h.extractLsb' 12 4 = 0b0101#4) :
    Encodes (decodeRegisterOffset h) [h] := by
  have hR3 : ∀ {op3 op}, h.extractLsb' 9 3 = op3 → 0b0101#4 ++ op3 = op →
      formatR3 op (h.extractLsb' 6 3) (h.extractLsb' 3 3) (h.extractLsb' 0 3) = h := fun h3 hop =>
    formatR3_fields (extract_of_parts h4 h3 hop)
  unfold decodeRegisterOffset
  split
  case h_8 =>
    have h3 : h.extractLsb' 9 3 = 0b111#3 := by simp only [imp_false] at *; bv_omega
    exact .single rfl rfl (hR3 h3 rfl)
  all_goals
    next h3 => exact .single rfl rfl (hR3 h3 rfl)

theorem decodeHighRegister_encodes (h6 : h.extractLsb' 10 6 = 0b010001#6) (hd : decodeHighRegister h = some i) :
    Encodes i [h] := by
  have hHI : ∀ {op2 op}, h.extractLsb' 8 2 = op2 → 0b010001#6 ++ op2 = op →
      formatHI op (h.extractLsb' 3 4) (splitRegister h) = h := fun h2 hop =>
    formatHI_fields (extract_of_parts h6 h2 hop)
  simp only [decodeHighRegister] at hd
  split at hd
  case h_4 =>
    have h2 : h.extractLsb' 8 2 = 0b11#2 := by simp only [imp_false] at *; bv_omega
    have h8 : h.extractLsb' 8 8 = 0b01000111#8 := extract_of_parts h6 h2 rfl
    split at hd
    · cases hd
    · next hzero =>
      have hlow : h.extractLsb' 0 3 = 0 := not_not.mp hzero
      split at hd
      · next h1 =>
        cases hd
        exact .single rfl rfl (formatBXF_fields (extract_of_parts h8 h1 rfl) hlow)
      · have h1 : h.extractLsb' 7 1 = 0#1 := by bv_omega
        have hBXF := formatBXF_fields (extract_of_parts h8 h1 rfl) hlow
        split at hd
        · next h14 =>
          cases hd
          rw [h14] at hBXF
          exact .single rfl rfl hBXF
        · next h14 =>
          cases hd
          exact .single (bne_iff_ne.mpr h14) rfl hBXF
  all_goals
    next h2 =>
      cases hd
      exact .single rfl rfl (hHI h2 rfl)

/-- Bits [9:8] of `h[10:8]`: bit 8 belongs to the list of `PUSH` and `POP` (R82). -/
theorem extract_9_2 (hk : h.extractLsb' 8 3 = 0b100#3 ∨ h.extractLsb' 8 3 = 0b101#3) :
    h.extractLsb' 9 2 = 0b10#2 := by
  rw [← extract_extract h (s := 8) (l := 3) (t := 1) (by decide)]
  rcases hk with hk | hk <;> rw [hk] <;> rfl

theorem decodeMisc_encodes (h5 : h.extractLsb' 11 5 = 0b10110#5) (hd : decodeMisc h = some i) : Encodes i [h] := by
  have hPL : h.extractLsb' 8 3 = 0b100#3 ∨ h.extractLsb' 8 3 = 0b101#3 → Encodes (.push (h.extractLsb' 0 9)) [h] :=
    fun hk => .single rfl rfl (formatPL_fields (extract_of_parts h5 (extract_9_2 hk) rfl))
  unfold decodeMisc at hd
  split at hd
  case h_1 h3 =>
    have h8 : h.extractLsb' 8 8 = 0b10110000#8 := extract_of_parts h5 h3 rfl
    split at hd <;> cases hd
    · next h1 => exact .single rfl rfl (formatS7_fields (extract_of_parts h8 h1 rfl))
    · have h1 : h.extractLsb' 7 1 = 1#1 := by bv_omega
      exact .single rfl rfl (formatS7_fields (extract_of_parts h8 h1 rfl))
  case h_2 h3 =>
    have h8 : h.extractLsb' 8 8 = 0b10110010#8 := extract_of_parts h5 h3 rfl
    have hR2 : ∀ {op2 op}, h.extractLsb' 6 2 = op2 → 0b10110010#8 ++ op2 = op →
        formatR2 op (h.extractLsb' 3 3) (h.extractLsb' 0 3) = h := fun h2 hop =>
      formatR2_fields (extract_of_parts h8 h2 hop)
    split at hd <;> cases hd
    case h_4 =>
      have h2 : h.extractLsb' 6 2 = 0b11#2 := by simp only [imp_false] at *; bv_omega
      exact .single rfl rfl (hR2 h2 rfl)
    all_goals
      next h2 => exact .single rfl rfl (hR2 h2 rfl)
  case h_3 h3 =>
    cases hd
    exact hPL (.inl h3)
  case h_4 h3 =>
    cases hd
    exact hPL (.inr h3)
  case h_5 =>
    split_ifs at hd with hh hh
    all_goals
      cases hd
      exact .single rfl rfl hh.symm
  case h_6 => cases hd

theorem decodeMisc2_encodes (h5 : h.extractLsb' 11 5 = 0b10111#5) (hd : decodeMisc2 h = some i) : Encodes i [h] := by
  have hPL : h.extractLsb' 8 3 = 0b100#3 ∨ h.extractLsb' 8 3 = 0b101#3 → Encodes (.pop (h.extractLsb' 0 9)) [h] :=
    fun hk => .single rfl rfl (formatPL_fields (extract_of_parts h5 (extract_9_2 hk) rfl))
  unfold decodeMisc2 at hd
  split at hd
  case h_1 h3 =>
    have h8 : h.extractLsb' 8 8 = 0b10111010#8 := extract_of_parts h5 h3 rfl
    have hR2 : ∀ {op2 op}, h.extractLsb' 6 2 = op2 → 0b10111010#8 ++ op2 = op →
        formatR2 op (h.extractLsb' 3 3) (h.extractLsb' 0 3) = h := fun h2 hop =>
      formatR2_fields (extract_of_parts h8 h2 hop)
    split at hd <;> cases hd
    all_goals
      next h2 => exact .single rfl rfl (hR2 h2 rfl)
  case h_2 h3 =>
    cases hd
    exact hPL (.inl h3)
  case h_3 h3 =>
    cases hd
    exact hPL (.inr h3)
  case h_4 h3 =>
    cases hd
    exact .single rfl rfl (formatX8_fields (extract_of_parts h5 h3 rfl))
  case h_5 =>
    split_ifs at hd with hh hh hh hh
    all_goals
      cases hd
      exact .single rfl rfl hh.symm
  case h_6 => cases hd

theorem decodeCondBranch_encodes (h4 : h.extractLsb' 12 4 = 0b1101#4) : Encodes (decodeCondBranch h) [h] := by
  unfold decodeCondBranch
  split
  case h_1 hcond => exact .single rfl rfl (formatBC_fields h4 hcond)
  case h_2 hcond => exact .single rfl rfl (formatBC_fields h4 hcond)
  case h_3 hcond => exact .single rfl rfl (formatX8_fields (extract_of_parts h4 hcond rfl))
  case h_4 h0 h1 h15 =>
    refine .single ?_ rfl (formatBC_fields h4 rfl)
    simp only [Instr.wellFormed, Bool.and_eq_true, bne_iff_ne]
    exact ⟨⟨h0, h1⟩, h15⟩

/-- The converse of `formatSHI_eq_zero`: a halfword whose fields are all zero is the word of `NOP` (R89). -/
theorem eq_zero_of_fields (h5 : h.extractLsb' 11 5 = 0) (hu5 : h.extractLsb' 6 5 = 0) (hmid : h.extractLsb' 3 3 = 0)
    (hlo : h.extractLsb' 0 3 = 0) : h = 0 := by
  rw [← formatSHI_fields h5, hu5, hmid, hlo]
  rfl

/-- What is read from one halfword encodes to it, region by region of the opcode map. -/
theorem decode16_encodes (hd : decode16 h = some i) : Encodes i [h] := by
  simp only [decode16] at hd
  split at hd
  case h_1 h5 =>
    split at hd <;> cases hd
    · next hzero => exact .single rfl rfl hzero.symm
    · next hne =>
      refine .single ?_ rfl (formatSHI_fields h5)
      simp only [Instr.wellFormed, Bool.not_eq_true', ← Bool.not_eq_true, Bool.and_eq_true, beq_iff_eq]
      exact fun ⟨⟨hlo, hmid⟩, hu5⟩ => hne (eq_zero_of_fields h5 hu5 hmid hlo)
  case h_4 h5 =>
    have hR3 : ∀ {op2 op}, h.extractLsb' 9 2 = op2 → 0b00011#5 ++ op2 = op →
        formatR3 op (h.extractLsb' 6 3) (h.extractLsb' 3 3) (h.extractLsb' 0 3) = h := fun h2 hop =>
      formatR3_fields (extract_of_parts h5 h2 hop)
    split at hd <;> cases hd
    case h_4 =>
      have h2 : h.extractLsb' 9 2 = 0b11#2 := by simp only [imp_false] at *; bv_omega
      exact .single rfl rfl (hR3 h2 rfl)
    all_goals
      next h2 => exact .single rfl rfl (hR3 h2 rfl)
  case h_9 h5 =>
    split at hd
    · next h1 =>
      cases hd
      exact decodeDataProcessing_encodes (extract_of_parts h5 h1 rfl)
    · have h1 : h.extractLsb' 10 1 = 1#1 := by bv_omega
      exact decodeHighRegister_encodes (extract_of_parts h5 h1 rfl) hd
  case h_11 h5 | h_12 h5 =>
    cases hd
    exact decodeRegisterOffset_encodes (extract_12_4 h5 rfl)
  case h_23 h5 => exact decodeMisc_encodes h5 hd
  case h_24 h5 => exact decodeMisc2_encodes h5 hd
  case h_27 h5 | h_28 h5 =>
    cases hd
    exact decodeCondBranch_encodes (extract_12_4 h5 rfl)
  case h_29 h5 =>
    cases hd
    exact .single rfl rfl (formatB11_fields h5)
  case h_30 => cases hd
  case h_2 h5 | h_3 h5 =>
    cases hd
    exact .single rfl rfl (formatSHI_fields h5)
  case h_13 h5 | h_14 h5 | h_15 h5 | h_16 h5 | h_17 h5 | h_18 h5 =>
    cases hd
    exact .single rfl rfl (formatMI5_fields h5)
  case h_25 h5 | h_26 h5 =>
    cases hd
    exact .single rfl rfl (formatML_fields h5)
  all_goals
    next h5 =>
      cases hd
      exact .single rfl rfl (formatI8_fields h5)

end Reads

theorem decode32_encodes {h h2 : Half} {i : Instr} (hw : isWide h = true) (hd : decode32 h h2 = some i) :
    Encodes i [h, h2] := by
  have h5 : h.extractLsb' 11 5 = 0b11110#5 := beq_iff_eq.mp hw
  unfold decode32 at hd
  split_ifs at hd with hcall hbarrier hread hop hwrite hop
  · cases hd
    refine .pair rfl rfl ?_ ?_
    · rw [extract_append_high _ _ 0 11, extract_all]
      exact formatB11_fields h5
    · rw [extract_append_low _ _ 0 11 (by decide), extract_all]
      exact formatB11_fields hcall
  · split at hd <;> cases hd
    all_goals
      next hop => exact .pair rfl rfl hbarrier.symm (formatBarrier_fields hop)
  · cases hd
    exact .pair rfl rfl hread.symm (formatMrs_fields hop)
  · cases hd
    exact .pair rfl rfl (formatBarrier_fields hwrite) (formatX8_fields hop)

/-- Settles O3: `decode16_encodes` and `decode32_encodes`, by the length that the first halfword tells. -/
theorem encodingInvertsDecoding : Obligations.EncodingInvertsDecoding := by
  intro h h2 i hd
  unfold decode at hd
  split at hd
  · next hw =>
    rw [if_pos hw]
    split at hd
    · cases hd
    · next heq =>
      cases heq
      split at hd <;> cases hd
      next hd' => exact decode32_encodes hw hd'
  · next hw =>
    rw [if_neg hw]
    split at hd <;> cases hd
    next hd' => exact decode16_encodes hd'

/-! ### The encodings with no instruction -/

theorem instrOf_narrow {s : State} {h : Half} (hw : isWide h = false) :
    s.instrOf h none = (decode16 h).filter s.cfg.admits := by
  simp only [State.instrOf, decode, hw, Bool.false_eq_true, if_false]
  cases decode16 h <;> rfl

theorem instrOf_wide {s : State} {h h2 : Half} (hw : isWide h = true) :
    s.instrOf h (some h2) = (decode32 h h2).filter s.cfg.admits := by
  simp only [State.instrOf, decode, hw, if_true]
  cases decode32 h h2 <;> rfl

theorem filter_eq_none_iff_any {α : Type} (o : Option α) (p : α → Bool) : o.filter p = none ↔ ¬ o.any p = true := by
  cases o <;> simp

theorem admits_decodeDataProcessing (c : Config) (h : Half) : c.admits (decodeDataProcessing h) = true := by
  unfold decodeDataProcessing
  split <;> rfl

theorem admits_decodeRegisterOffset (c : Config) (h : Half) : c.admits (decodeRegisterOffset h) = true := by
  unfold decodeRegisterOffset
  split <;> rfl

/-- What a field tells of the halfword as a number. -/
theorem field_toNat {h : Half} {s l k : Nat} (e : h.extractLsb' s l = BitVec.ofNat l k) :
    h.toNat / 2 ^ s % 2 ^ l = k % 2 ^ l := by
  rw [(extract_eq_iff _ _).mp e, BitVec.toNat_ofNat]

theorem field_toNat_ne {h : Half} {s l k : Nat} (e : h.extractLsb' s l ≠ BitVec.ofNat l k) :
    h.toNat / 2 ^ s % 2 ^ l ≠ k % 2 ^ l := fun hk =>
  e ((extract_eq_iff _ _).mpr (hk.trans (BitVec.toNat_ofNat _ _).symm))

theorem half_eq_iff (h : Half) (k : Nat) (hk : k < 65536) : h = BitVec.ofNat 16 k ↔ h.toNat = k := by
  rw [← BitVec.toNat_inj, BitVec.toNat_ofNat, Nat.mod_eq_of_lt hk]

/-- The table of R95 and R97 as arithmetic, the parameters as they stand. -/
theorem unassigned16_iff (c : Config) (h : Half) : unassigned16 c h = true ↔
    (0x4700 ≤ h.toNat ∧ h.toNat ≤ 0x47FF ∧ h.toNat % 8 ≠ 0) ∨
    (0xB100 ≤ h.toNat ∧ h.toNat ≤ 0xB3FF ∧ ¬ (c.unknownGroup = .admitted ∧ 0xB200 ≤ h.toNat ∧ h.toNat ≤ 0xB2FF)) ∨
    (0xB600 ≤ h.toNat ∧ h.toNat ≤ 0xB6FF ∧ h.toNat ≠ 0xB662 ∧ h.toNat ≠ 0xB672) ∨
    (0xB700 ≤ h.toNat ∧ h.toNat ≤ 0xB9FF) ∨ (0xBA80 ≤ h.toNat ∧ h.toNat ≤ 0xBABF) ∨
    (0xBB00 ≤ h.toNat ∧ h.toNat ≤ 0xBBFF) ∨
    (0xBF00 ≤ h.toNat ∧ h.toNat ≤ 0xBFFF ∧ h.toNat ≠ 0xBF30 ∧
      ¬ (c.unknownGroup = .admitted ∧ (h.toNat = 0xBF10 ∨ h.toNat = 0xBF20 ∨ h.toNat = 0xBF40))) ∨
    (0xE800 ≤ h.toNat ∧ h.toNat ≤ 0xEFFF) ∨ (0xF800 ≤ h.toNat ∧ h.toNat ≤ 0xFFFF) ∨
    (c.cond14 = .undefined ∧ 0xDE00 ≤ h.toNat ∧ h.toNat ≤ 0xDEFF) := by
  simp only [unassigned16, Bool.or_eq_true, Bool.and_eq_true, Bool.not_eq_true', decide_eq_true_eq, beq_iff_eq,
    bne_iff_ne, or_assoc, and_assoc, ← Bool.not_eq_true, not_and_or]

section Admitted

variable (c : Config) {h : Half}

/-! Each region of the opcode map: where it has an instruction that the parameters admit. -/

theorem any_admits_decodeHighRegister (h6 : h.extractLsb' 10 6 = 0b010001#6) :
    (decodeHighRegister h).any c.admits = true ↔ ¬ (0x4700 ≤ h.toNat ∧ h.toNat % 8 ≠ 0) := by
  have hn := field_toNat h6
  simp only [decodeHighRegister]
  split
  case h_4 n0 n1 n2 =>
    simp only [extract_eq_iff, BitVec.reduceToNat, imp_false] at n0 n1 n2
    split
    case isTrue hlow =>
      have hnlow := field_toNat_ne (k := 0) hlow
      exact iff_of_false Bool.false_ne_true (by omega)
    case isFalse hlow =>
      have hnlow := field_toNat (k := 0) (not_not.mp hlow)
      split_ifs
      all_goals exact iff_of_true rfl (by omega)
  all_goals
    next h2 =>
      have hn2 := field_toNat h2
      exact iff_of_true rfl (by omega)

theorem any_admits_decodeMisc (h5 : h.extractLsb' 11 5 = 0b10110#5) :
    (decodeMisc h).any c.admits = true ↔
      h.toNat < 0xB100 ∨ (c.unknownGroup = .admitted ∧ 0xB200 ≤ h.toNat ∧ h.toNat ≤ 0xB2FF) ∨
        (0xB400 ≤ h.toNat ∧ h.toNat ≤ 0xB5FF) ∨ h.toNat = 0xB662 ∨ h.toNat = 0xB672 := by
  have hn := field_toNat h5
  unfold decodeMisc
  split
  case h_1 h3 =>
    have hn3 := field_toNat h3
    split
    all_goals exact iff_of_true rfl (by omega)
  case h_2 h3 =>
    have hn3 := field_toNat h3
    have hrange : 0xB200 ≤ h.toNat ∧ h.toNat ≤ 0xB2FF := by omega
    split
    all_goals
      refine beq_iff_eq.trans ⟨?_, ?_⟩
      · exact fun hk => .inr (.inl ⟨hk, hrange⟩)
      · rintro (hr | ⟨hk, -⟩ | hr)
        · omega
        · exact hk
        · omega
  case h_3 h3 | h_4 h3 =>
    have hn3 := field_toNat h3
    exact iff_of_true rfl (by omega)
  case h_5 h3 =>
    have hn3 := field_toNat h3
    simp (disch := decide) only [half_eq_iff]
    split_ifs
    · exact iff_of_true rfl (by omega)
    · exact iff_of_true rfl (by omega)
    · exact iff_of_false Bool.false_ne_true (by omega)
  case h_6 n0 n2 n4 n5 n6 =>
    simp only [extract_eq_iff, BitVec.reduceToNat, imp_false] at n0 n2 n4 n5 n6
    exact iff_of_false Bool.false_ne_true (by omega)

theorem any_admits_decodeMisc2 (h5 : h.extractLsb' 11 5 = 0b10111#5) :
    (decodeMisc2 h).any c.admits = true ↔
      (0xBA00 ≤ h.toNat ∧ h.toNat ≤ 0xBA7F) ∨ (0xBAC0 ≤ h.toNat ∧ h.toNat ≤ 0xBAFF) ∨
        (0xBC00 ≤ h.toNat ∧ h.toNat ≤ 0xBEFF) ∨ h.toNat = 0xBF30 ∨
        (c.unknownGroup = .admitted ∧ (h.toNat = 0xBF10 ∨ h.toNat = 0xBF20 ∨ h.toNat = 0xBF40)) := by
  have hn := field_toNat h5
  unfold decodeMisc2
  split
  case h_1 h3 =>
    have hn3 := field_toNat h3
    split
    case h_4 n0 n1 n3 =>
      simp only [extract_eq_iff, BitVec.reduceToNat, imp_false] at n0 n1 n3
      exact iff_of_false Bool.false_ne_true (by omega)
    all_goals
      next h2 =>
        have hn2 := field_toNat h2
        exact iff_of_true rfl (by omega)
  case h_2 h3 | h_3 h3 | h_4 h3 =>
    have hn3 := field_toNat h3
    exact iff_of_true rfl (by omega)
  case h_5 h3 =>
    have hn3 := field_toNat h3
    split_ifs with e30 e10 e20 e40
    · exact iff_of_true rfl (by simp [e30])
    · exact beq_iff_eq.trans (by simp [e10])
    · exact beq_iff_eq.trans (by simp [e20])
    · exact beq_iff_eq.trans (by simp [e40])
    · simp (disch := decide) only [half_eq_iff] at e30 e10 e20 e40
      exact iff_of_false Bool.false_ne_true (by omega)
  case h_6 n2 n4 n5 n6 n7 =>
    simp only [extract_eq_iff, BitVec.reduceToNat, imp_false] at n2 n4 n5 n6 n7
    exact iff_of_false Bool.false_ne_true (by omega)

theorem admits_decodeCondBranch (h4 : h.extractLsb' 12 4 = 0b1101#4) :
    c.admits (decodeCondBranch h) = true ↔ ¬ (c.cond14 = .undefined ∧ 0xDE00 ≤ h.toNat ∧ h.toNat ≤ 0xDEFF) := by
  have hn := field_toNat h4
  unfold decodeCondBranch
  split
  case h_4 =>
    have hcond : h.extractLsb' 8 4 = 14#4 ↔ 0xDE00 ≤ h.toNat ∧ h.toNat ≤ 0xDEFF := by
      simp only [extract_eq_iff, BitVec.reduceToNat]
      omega
    have hparam : c.cond14 = .always ↔ ¬ c.cond14 = .undefined := by cases c.cond14 <;> decide
    rw [← hcond, not_and_or, ← hparam, or_comm]
    exact (Bool.or_eq_true _ _).to_iff.trans (or_congr bne_iff_ne beq_iff_eq)
  all_goals
    next hc =>
      have hnc := field_toNat hc
      exact iff_of_true rfl (by omega)

end Admitted

/-- The 16-bit encodings that the decoder reads and the parameters admit are those that the table of R95 leaves out. -/
theorem any_admits_decode16 (c : Config) {h : Half} (hw : isWide h = false) :
    (decode16 h).any c.admits = true ↔ ¬ unassigned16 c h = true := by
  rw [unassigned16_iff]
  simp only [decode16]
  split
  case h_1 h5 | h_4 h5 =>
    have hn := field_toNat h5
    split
    all_goals exact iff_of_true rfl (by omega)
  case h_9 h5 =>
    have hn := field_toNat h5
    split
    · next h1 =>
      have hn1 := field_toNat (k := 0) h1
      exact iff_of_true (admits_decodeDataProcessing c h) (by omega)
    · have h1 : h.extractLsb' 10 1 = 1#1 := by bv_omega
      rw [any_admits_decodeHighRegister c (extract_of_parts h5 h1 rfl)]
      omega
  case h_11 h5 | h_12 h5 =>
    have hn := field_toNat h5
    exact iff_of_true (admits_decodeRegisterOffset c h) (by omega)
  case h_23 h5 =>
    have hn := field_toNat h5
    rw [any_admits_decodeMisc c h5]
    by_cases hk : c.unknownGroup = .admitted
    all_goals
      simp only [hk, true_and, false_and, false_or, not_false_eq_true, and_true]
      omega
  case h_24 h5 =>
    have hn := field_toNat h5
    rw [any_admits_decodeMisc2 c h5]
    by_cases hk : c.unknownGroup = .admitted
    all_goals
      simp only [hk, true_and, false_and, or_false, not_false_eq_true, and_true]
      omega
  case h_27 h5 | h_28 h5 =>
    have hn := field_toNat h5
    rw [Option.any_some, admits_decodeCondBranch c (extract_12_4 h5 rfl)]
    by_cases hk : c.cond14 = .undefined
    all_goals
      simp only [hk, true_and, false_and, or_false, not_false_eq_true, true_iff]
      omega
  case h_30 =>
    have h30 : h.extractLsb' 11 5 ≠ 0b11110#5 := beq_eq_false_iff_ne.mp hw
    have hrange : (0xE800 ≤ h.toNat ∧ h.toNat ≤ 0xEFFF) ∨ (0xF800 ≤ h.toNat ∧ h.toNat ≤ 0xFFFF) := by
      simp only [extract_eq_iff, BitVec.reduceToNat, imp_false, ne_eq] at *
      omega
    clear * - hrange
    exact iff_of_false Bool.false_ne_true (by omega)
  all_goals
    next h5 =>
      have hn := field_toNat h5
      exact iff_of_true rfl (by omega)

/-- R97: the pairs of the barriers, of `Rd = spec_reg` and of `spec_reg = Rd`. -/
def SystemPair (h h2 : Half) : Prop :=
  (h.toNat = 0xF3BF ∧ 0x8F40 ≤ h2.toNat ∧ h2.toNat ≤ 0x8F6F) ∨
  (h.toNat = 0xF3EF ∧ 0x8000 ≤ h2.toNat ∧ h2.toNat ≤ 0x8FFF) ∨
  (0xF380 ≤ h.toNat ∧ h.toNat ≤ 0xF38F ∧ 0x8800 ≤ h2.toNat ∧ h2.toNat ≤ 0x88FF)

theorem unassigned32_iff (c : Config) (h h2 : Half) : unassigned32 c h h2 = true ↔
    h2.toNat < 0xF800 ∧ ¬ (c.unknownGroup = .admitted ∧ SystemPair h h2) := by
  simp only [unassigned32, SystemPair, Bool.or_eq_true, Bool.and_eq_true, Bool.not_eq_true', decide_eq_true_eq,
    beq_iff_eq, or_assoc, and_assoc, ← Bool.not_eq_true]

/-- The pairs that the decoder reads and the parameters admit are those that R95 and R97 leave out. -/
theorem any_admits_decode32 (c : Config) {h : Half} (h2 : Half) (hw : isWide h = true) :
    (decode32 h h2).any c.admits = true ↔ ¬ unassigned32 c h h2 = true := by
  have hn := field_toNat (beq_iff_eq.mp hw)
  have hgroup : ¬ h2.extractLsb' 11 5 = 0b11111#5 → SystemPair h h2 →
      (c.unknownGroup = .admitted ↔ ¬ unassigned32 c h h2 = true) := fun hcall hpair => by
    have hncall := field_toNat_ne hcall
    simp [unassigned32_iff, show h2.toNat < 0xF800 by omega, hpair]
  have hnone : ¬ h2.extractLsb' 11 5 = 0b11111#5 → ¬ SystemPair h h2 →
      (false = true ↔ ¬ unassigned32 c h h2 = true) := fun hcall hpair => by
    have hncall := field_toNat_ne hcall
    simp [unassigned32_iff, show h2.toNat < 0xF800 by omega, hpair]
  unfold SystemPair at hgroup hnone
  unfold decode32
  split_ifs with hcall hbarrier hread hop hwrite hop
  · have hncall := field_toNat hcall
    rw [unassigned32_iff]
    exact iff_of_true rfl (by omega)
  · have hnh : h.toNat = 0xF3BF := congrArg BitVec.toNat hbarrier
    split
    case h_4 n4 n5 n6 =>
      simp only [extract_eq_iff, BitVec.reduceToNat, imp_false] at n4 n5 n6
      exact hnone hcall (by omega)
    all_goals
      next hop =>
        have hnop := field_toNat hop
        exact beq_iff_eq.trans (hgroup hcall (by omega))
  · have hnh : h.toNat = 0xF3EF := congrArg BitVec.toNat hread
    have hnop := field_toNat hop
    exact beq_iff_eq.trans (hgroup hcall (by omega))
  · have hnh : h.toNat = 0xF3EF := congrArg BitVec.toNat hread
    have hnop := field_toNat_ne hop
    exact hnone hcall (by omega)
  · have hnh := field_toNat hwrite
    have hnop := field_toNat hop
    exact beq_iff_eq.trans (hgroup hcall (by omega))
  · have hnh := field_toNat hwrite
    have hnop := field_toNat_ne hop
    exact hnone hcall (by omega)
  · have hnh := field_toNat_ne hwrite
    simp (disch := decide) only [half_eq_iff] at hbarrier hread
    exact hnone hcall (by omega)

theorem undefined_of_instrOf_none {s : State} {h : Half} {o : Option Half} (hT : s.epsrT = true)
    (hf : fetchInstr s = .ok h o s) (hi : s.instrOf h o = none) :
    s.runInstr = raise (.undefinedInstruction h o) s := by
  simp [State.runInstr, hT, hf, hi]

/-- Settles O4: the two tables by `any_admits_decode16` and `any_admits_decode32`, the trap by `traps_raise`. -/
theorem unassignedEncodingsAreThoseOfTheTable : Obligations.UnassignedEncodingsAreThoseOfTheTable := by
  intro s h h2
  refine ⟨fun hw => ?narrow, fun hw => ?wide, fun o hT hf hi => ?trap⟩
  case narrow => rw [instrOf_narrow hw, filter_eq_none_iff_any, any_admits_decode16 _ hw, not_not]
  case wide => rw [instrOf_wide hw, filter_eq_none_iff_any, any_admits_decode32 _ h2 hw, not_not]
  case trap =>
    rw [undefined_of_instrOf_none hT hf hi]
    exact traps_raise rfl

end Sys2Proof.Claims

/-! PROOFS. The conditions of a branch (R191): the rows of the table that read two or three flags, and the opposite of
each even condition. -/

namespace Sys2Proof.Claims
open Sys2Proof.Machine

theorem conditionPassed_8_iff (f : Flags) : conditionPassed 8 f ↔ f.z = false ∧ f.c = true :=
  (Bool.and_eq_true_iff (x := !f.z)).trans (and_congr_left' (Bool.not_eq_true' _).to_iff)

theorem conditionPassed_9_iff (f : Flags) : conditionPassed 9 f ↔ f.z = true ∨ f.c = false :=
  (Bool.or_eq_true_iff (x := f.z)).trans (or_congr_right (Bool.not_eq_true' _).to_iff)

theorem conditionPassed_10_iff (f : Flags) : conditionPassed 10 f ↔ f.n = f.v :=
  beq_iff_eq (a := f.n)

theorem conditionPassed_11_iff (f : Flags) : conditionPassed 11 f ↔ f.n ≠ f.v :=
  bne_iff_ne (a := f.n)

/-- Condition 12 adds `Z` clear to condition 10. -/
theorem conditionPassed_12_iff (f : Flags) : conditionPassed 12 f ↔ f.z = false ∧ f.n = f.v :=
  (Bool.and_eq_true_iff (x := !f.z)).trans (and_congr (Bool.not_eq_true' _).to_iff (conditionPassed_10_iff f))

/-- Condition 13 adds `Z` set to condition 11. -/
theorem conditionPassed_13_iff (f : Flags) : conditionPassed 13 f ↔ f.z = true ∨ f.n ≠ f.v :=
  (Bool.or_eq_true_iff (x := f.z)).trans (or_congr_right (conditionPassed_11_iff f))

/-- Conditions 9 and 13 negate 8 and 12 by De Morgan; the other odd conditions are written as the negation. -/
theorem conditionPassed_odd (f : Flags) : ∀ k < 7,
    conditionPassed (BitVec.ofNat 4 (2 * k + 1)) f = !conditionPassed (BitVec.ofNat 4 (2 * k)) f
  | 0, _ | 1, _ | 2, _ | 3, _ | 5, _ => rfl
  | 4, _ => show (f.z || !f.c) = !(!f.z && f.c) by rw [Bool.not_and, Bool.not_not]
  | 6, _ => show (f.z || f.n != f.v) = !(!f.z && f.n == f.v) by rw [Bool.not_and, Bool.not_not, bne]

/-- Settles O33: conditions 0 to 7 read one flag or its negation, 14 reads none, and the rest is stated above. -/
theorem conditionsTestTheFlags : Obligations.ConditionsTestTheFlags := fun f =>
  ⟨.rfl, (Bool.not_eq_true' _).to_iff, .rfl, (Bool.not_eq_true' _).to_iff,
    .rfl, (Bool.not_eq_true' _).to_iff, .rfl, (Bool.not_eq_true' _).to_iff,
    conditionPassed_8_iff f, conditionPassed_9_iff f, conditionPassed_10_iff f, conditionPassed_11_iff f,
    conditionPassed_12_iff f, conditionPassed_13_iff f, rfl, conditionPassed_odd f⟩

end Sys2Proof.Claims

/-! PROOFS. What one instruction can do (R26, R30, R292, R293, R311): it is refused, completes, traps in a state that is
the one before it but for a transfer cut short, or is an exception return. Every statement about all instructions is
derived from that. -/

namespace Sys2Proof.Claims
open Sys2Proof.Machine

/-! ### Even addresses and aligned pointers (R24, R25) -/

theorem clearBit0_add {a b : Word} (ha : clearBit0 a = a) (hb : b.toNat % 2 = 0) : clearBit0 (a + b) = a + b := by
  rw [clearBit0_eq_iff] at ha ⊢
  rw [BitVec.toNat_add]
  omega

/-- An offset in halfwords keeps the address even (R85). -/
theorem clearBit0_branchTarget {s : State} (h : clearBit0 s.pc = s.pc) (offset : Word) :
    clearBit0 (s.branchTarget offset) = s.branchTarget offset := by
  refine clearBit0_add (clearBit0_add h (by decide)) ?_
  have h2 : (2 : Word).toNat = 2 := rfl
  rw [BitVec.toNat_mul, h2]
  omega

theorem alignWord_frameAddr {s : State} (hmsp : alignWord s.msp = s.msp) (hpsp : alignWord s.psp = s.psp) :
    alignWord s.frameAddr = s.frameAddr := by
  have hsp : alignWord s.sp = s.sp := by
    unfold State.sp
    split <;> assumption
  refine clearBit2_aligned ?_
  rw [alignWord_eq_iff] at hsp ⊢
  have h20 : (0x20 : Word).toNat = 32 := rfl
  rw [BitVec.toNat_sub, h20]
  omega

theorem alignWord_stackAfterReturn {frame : Word} (psr : Word) (h : alignWord frame = frame) :
    alignWord (stackAfterReturn frame psr) = stackAfterReturn frame psr := by
  refine alignWord_or_four _ (clearBit2_aligned ?_)
  rw [alignWord_eq_iff] at h ⊢
  have h20 : (0x20 : Word).toNat = 32 := rfl
  rw [BitVec.toNat_add, h20]
  omega

/-! ### What is kept -/

/-- The exception state, the mask, the flags and the parameters are kept, and so is the invariant. -/
structure Undisturbed (s t : State) : Prop where
  inv : s.Inv → t.Inv
  cfg : t.cfg = s.cfg
  mode : t.mode = s.mode
  ipsr : t.ipsr = s.ipsr
  epsrT : t.epsrT = s.epsrT
  active : t.active = s.active
  lockup : t.lockup = s.lockup
  pm : t.pm = s.pm
  flags : t.flags = s.flags

/-- R293: a trap that is precise has also written no stack pointer, not `LR` and not `pc`. -/
structure Precise (s t : State) : Prop extends Undisturbed s t where
  lr : t.lr = s.lr
  msp : t.msp = s.msp
  psp : t.psp = s.psp
  pc : t.pc = s.pc
  spsel : t.spsel = s.spsel

theorem Undisturbed.refl (s : State) : Undisturbed s s := ⟨id, rfl, rfl, rfl, rfl, rfl, rfl, rfl, rfl⟩

theorem Undisturbed.trans {s t u : State} (h : Undisturbed s t) (k : Undisturbed t u) : Undisturbed s u :=
  ⟨k.inv ∘ h.inv, k.cfg.trans h.cfg, k.mode.trans h.mode, k.ipsr.trans h.ipsr, k.epsrT.trans h.epsrT,
    k.active.trans h.active, k.lockup.trans h.lockup, k.pm.trans h.pm, k.flags.trans h.flags⟩

theorem Precise.refl (s : State) : Precise s s := ⟨.refl s, rfl, rfl, rfl, rfl, rfl⟩

theorem Precise.trans {s t u : State} (h : Precise s t) (k : Precise t u) : Precise s u :=
  ⟨h.toUndisturbed.trans k.toUndisturbed, k.lr.trans h.lr, k.msp.trans h.msp, k.psp.trans h.psp, k.pc.trans h.pc,
    k.spsel.trans h.spsel⟩

/-- Accesses disturb nothing; memory keeps its form. -/
theorem precise_of_access {s t : State} (h : AccessKeeps s t) : Precise s t := by
  obtain ⟨heq, hwf⟩ := h
  rw [heq]
  refine ⟨⟨fun ⟨hmem, hpc, hmsp, hpsp, hspsel⟩ => ⟨?_, hpc, hmsp, hpsp, hspsel⟩, rfl, rfl, rfl, rfl, rfl, rfl, rfl,
    rfl⟩, rfl, rfl, rfl, rfl, rfl⟩
  exact hwf hmem

theorem precise_of_read {s t : State} (h : ReadKeeps s t) : Precise s t := precise_of_access h.access

theorem precise_regs (s : State) (r : Vector Word 13) (k : Nat) : Precise s { s with regs := r, freeIdx := k } :=
  ⟨⟨id, rfl, rfl, rfl, rfl, rfl, rfl, rfl, rfl⟩, rfl, rfl, rfl, rfl, rfl⟩

theorem precise_freeRegs (s : State) (rs : List (BitVec 3)) : Precise s (s.freeRegs rs) := by
  obtain ⟨r, k, h⟩ := State.freeRegs_keeps rs s
  exact h ▸ precise_regs s r k

theorem precise_freeSlots (s : State) (l : List (Word × Word)) : Precise s (s.freeSlots l) :=
  precise_of_access (State.freeSlots_keeps l s)

theorem undisturbed_setLo (s : State) (r : BitVec 3) (v : Word) : Undisturbed s (s.setLo r v) :=
  ⟨id, rfl, rfl, rfl, rfl, rfl, rfl, rfl, rfl⟩

theorem undisturbed_setValues (s : State) (rs : List (BitVec 3)) (vs : List Word) :
    Undisturbed s (s.setValues rs vs) := by
  obtain ⟨r, h⟩ := State.setValues_keeps rs vs s
  exact h ▸ (precise_regs s r s.freeIdx).toUndisturbed

theorem undisturbed_setSp (s : State) (v : Word) : Undisturbed s (s.setSp v) := by
  unfold State.setSp
  split
  · exact ⟨fun ⟨hmem, hpc, hmsp, _, hspsel⟩ => ⟨hmem, hpc, hmsp, alignWord_alignWord v, hspsel⟩, rfl, rfl, rfl, rfl,
      rfl, rfl, rfl, rfl⟩
  · exact ⟨fun ⟨hmem, hpc, _, hpsp, hspsel⟩ => ⟨hmem, hpc, alignWord_alignWord v, hpsp, hspsel⟩, rfl, rfl, rfl, rfl,
      rfl, rfl, rfl, rfl⟩

/-- A new `pc` is even. -/
theorem undisturbed_pc {s : State} {a : Word} (h : clearBit0 s.pc = s.pc → clearBit0 a = a) :
    Undisturbed s { s with pc := a } :=
  ⟨fun ⟨hmem, hpc, hrest⟩ => ⟨hmem, h hpc, hrest⟩, rfl, rfl, rfl, rfl, rfl, rfl, rfl, rfl⟩

theorem undisturbed_setReg (s : State) (i : BitVec 4) (v : Word) : Undisturbed s (s.setReg i v) := by
  unfold State.setReg
  split
  · exact ⟨id, rfl, rfl, rfl, rfl, rfl, rfl, rfl, rfl⟩
  · split
    · exact undisturbed_setSp s v
    · split
      · exact ⟨id, rfl, rfl, rfl, rfl, rfl, rfl, rfl, rfl⟩
      · exact undisturbed_pc fun _ => clearBit0_clearBit0 v

/-- The advance past an instruction (R26). -/
theorem undisturbed_advance {s : State} {n : Word} (h : n.toNat % 2 = 0) : Undisturbed s (s.advance n) :=
  undisturbed_pc fun hpc => clearBit0_add hpc h

theorem undisturbed_pushStart (s : State) (l : List (Word × Word)) : Precise s (s.pushStart l) := by
  unfold State.pushStart
  split
  · exact .refl s
  · exact precise_regs s s.regs _

/-! ### What one instruction can do -/

/-- The instructions of the rows of R30 that write flags, a write of a special register among them. -/
def writesFlags : Instr → Bool
  | .movImm _ _ | .addImm8 _ _ | .subImm8 _ _ | .addImm3 _ _ _ | .subImm3 _ _ _ | .addReg _ _ _ | .subReg _ _ _
  | .neg _ _ | .mul _ _ | .lslImm _ _ _ | .lsrImm _ _ _ | .lslReg _ _ | .lsrReg _ _ | .mvn _ _ | .andReg _ _
  | .orrReg _ _ | .eorReg _ _ | .cmpImm _ _ | .cmpHi _ _ | .cmpReg _ _ | .cmn _ _ | .tst _ _ | .asrImm _ _ _
  | .asrReg _ _ | .bic _ _ | .ror _ _ | .adc _ _ | .sbc _ _ | .nop | .msr _ _ => true
  | _ => false

/-- The instructions that write `PM` (R37). -/
def writesMask : Instr → Bool
  | .cpsid | .cpsie => true
  | .msr _ sysm => sysm == 16
  | _ => false

/-- An instruction that completes: it leaves the exception state alone, and flags and mask unless it writes them. -/
structure Completes (i : Instr) (s t : State) : Prop where
  inv : s.Inv → t.Inv
  cfg : t.cfg = s.cfg
  mode : t.mode = s.mode
  ipsr : t.ipsr = s.ipsr
  epsrT : t.epsrT = s.epsrT
  active : t.active = s.active
  lockup : t.lockup = s.lockup
  pm : writesMask i = false → t.pm = s.pm
  flags : writesFlags i = false → t.flags = s.flags

/-- R293: what a trapping instruction has done beside what a precise trap leaves alone. -/
inductive CutShort : Instr → State → State → Prop
  | nothing {i : Instr} (s : State) (hstm : ∀ rn list, i ≠ .stm rn list) : CutShort i s s
  | pop {list : BitVec 9} {s t : State} (hmem : t.mem = s.mem) (hhigh : sameHigh s t) : CutShort (.pop list) s t
  | ldm {rn : BitVec 3} {list : BitVec 8} {s t : State} (hmem : t.mem = s.mem) (hhigh : sameHigh s t)
      (hbase : t.lo rn = s.lo rn) : CutShort (.ldm rn list) s t
  | push {list : BitVec 9} {s t : State} (hregs : t.regs = s.regs)
      (hmem : ∀ a : Nat, (∀ slot ∈ s.pushSlots list, ∀ k < 4, a ≠ (slot.1 + BitVec.ofNat 32 k).toNat) →
        t.mem.read a = s.mem.read a) : CutShort (.push list) s t
  | stm {rn : BitVec 3} {list : BitVec 8} {s t : State} (hregs : t.regs = s.regs) {k : Nat}
      (hk : k < (listedRegs list).length)
      (hstored : writeWords (s.lo rn) ((s.values (listedRegs list)).take k) s = .ok () t) : CutShort (.stm rn list) s t

/-- R195, R198, R211: the value that `GOTO Rm`, `RET` or `POP` with `PC` gives to `pc`. -/
def GivesPc (s : State) (i : Instr) (v : Word) : Prop :=
  (∃ rm, i = .gotoReg rm ∧ s.reg rm = v) ∨ (i = .ret ∧ s.lr = v) ∨
    ∃ list vs s1, i = .pop list ∧ list.getLsbD 8 = true ∧ readWords s.sp (popCount list) s = .ok vs s1 ∧
      vs[listCount (list.setWidth 8)]? = some v

/-- What the outcome of an instruction can be. -/
inductive Runs (i : Instr) (s : State) : Host.Outcome State Fault Refusal → Prop
  | refused (r : Refusal) : Runs i s (.refused r)
  | completes {t : State} (h : Completes i s t) : Runs i s (.next t)
  | traps (x : Trap) {t : State} (hkeeps : Precise s t) (hcut : CutShort i s t) : Runs i s (raise x t)
  | returns (v : Word) {t : State} (hexc : s.isExceptionReturn v = true) (hv : GivesPc s i v)
      (hkeeps : Undisturbed s t) : Runs i s (.next (exceptionReturn v t))

/-! ### The shapes of the meanings -/

section Shapes

variable {i : Instr} {s t : State}

theorem Runs.undisturbed (h : Undisturbed s t) : Runs i s (.next t) :=
  .completes ⟨h.inv, h.cfg, h.mode, h.ipsr, h.epsrT, h.active, h.lockup, fun _ => h.pm, fun _ => h.flags⟩

theorem Runs.result (hf : writesFlags i = true) (rd : BitVec 3) (v : Word) (f : Flags) :
    Runs i s (.next (s.result rd v f)) := by
  have hkeeps : Undisturbed s ((s.setLo rd v).advance 2) :=
    (undisturbed_setLo s rd v).trans (undisturbed_advance (by decide))
  exact .completes ⟨hkeeps.inv, rfl, rfl, rfl, rfl, rfl, rfl, fun _ => rfl, fun h => by rw [hf] at h; cases h⟩

theorem Runs.resultFlags (hf : writesFlags i = true) (f : Flags) : Runs i s (.next (s.resultFlags f)) := by
  have hkeeps : Undisturbed s (s.advance 2) := undisturbed_advance (by decide)
  exact .completes ⟨hkeeps.inv, rfl, rfl, rfl, rfl, rfl, rfl, fun _ => rfl, fun h => by rw [hf] at h; cases h⟩

theorem Runs.setLo (rd : BitVec 3) (v : Word) : Runs i s (.next ((s.setLo rd v).advance 2)) :=
  .undisturbed ((undisturbed_setLo s rd v).trans (undisturbed_advance (by decide)))

theorem Runs.advance {n : Word} (hn : n.toNat % 2 = 0) : Runs i s (.next (s.advance n)) :=
  .undisturbed (undisturbed_advance hn)

theorem Runs.rightShift (hf : writesFlags i = true) (op : Word → Nat → Word × Bool) (rd rm : BitVec 3) (u5 : BitVec 5) :
    Runs i s (immRightShift op rd rm u5 s) := by
  unfold immRightShift
  split
  · split
    · exact .result hf ..
    · exact .result hf ..
    · exact .refused _
  · exact .result hf ..

theorem Runs.branchIf (cond : BitVec 4) (n8 : BitVec 8) : Runs i s (branchIf cond n8 s) := by
  unfold Machine.branchIf
  split
  · exact .undisturbed (undisturbed_pc fun h => clearBit0_branchTarget h _)
  · exact .advance (by decide)

/-- A trap before anything is done. -/
theorem Runs.raise (hstm : ∀ rn list, i ≠ .stm rn list) (x : Trap) : Runs i s (raise x s) :=
  .traps x (.refl s) (.nothing s hstm)

theorem Runs.loadTo (hstm : ∀ rn list, i ≠ .stm rn list) (rd : BitVec 3) (z : Size) (e : Word → Word) (a : Word) :
    Runs i s (loadTo rd z e a s) := by
  rcases loadTo_cases rd z e a s with ⟨x, h⟩ | ⟨v, t, hkeeps, h⟩
  · exact h ▸ .raise hstm x
  · exact h ▸ .undisturbed ((precise_of_read hkeeps).toUndisturbed.trans
      ((undisturbed_setLo t rd (e v)).trans (undisturbed_advance (by decide))))

theorem Runs.storeFrom (hstm : ∀ rn list, i ≠ .stm rn list) (rd : BitVec 3) (z : Size) (a : Word) :
    Runs i s (storeFrom rd z a s) := by
  rcases storeFrom_cases rd z a s with ⟨x, h⟩ | ⟨t, hkeeps, h⟩
  · exact h ▸ .raise hstm x
  · exact h ▸ .undisturbed ((precise_of_access hkeeps).toUndisturbed.trans (undisturbed_advance (by decide)))

theorem Runs.branchTo (hstm : ∀ rn list, i ≠ .stm rn list) {v : Word} (hv : GivesPc s i v) :
    Runs i s (branchTo v s) := by
  rcases branchTo_cases v s with ⟨hexc, h⟩ | ⟨-, -, h⟩ | ⟨-, -, h⟩
  · exact h ▸ .returns v hexc hv (.refl s)
  · exact h ▸ .undisturbed (undisturbed_pc fun _ => clearBit0_clearBit0 v)
  · exact h ▸ .raise hstm _

theorem undisturbed_tryWait (s : State) (w : Wait) : Undisturbed s (s.tryWait w) := by
  rcases State.tryWait_cases w s with h | h
  · have hkeeps : Undisturbed s (s.advance 2) := undisturbed_advance (by decide)
    rw [h]
    exact ⟨hkeeps.inv, rfl, rfl, rfl, rfl, rfl, rfl, rfl, rfl⟩
  · rw [h]
    exact ⟨id, rfl, rfl, rfl, rfl, rfl, rfl, rfl, rfl⟩

end Shapes

/-! ### Multiple transfers -/

theorem sameHigh_setLo (s : State) (r : BitVec 3) (v : Word) : sameHigh s (s.setLo r v) := by
  intro k hk
  have hr := r.isLt
  rw [State.setLo_regs, Vector.getElem?_set_ne]
  omega

theorem sameHigh_freeRegs (s : State) (rs : List (BitVec 3)) : sameHigh s (s.freeRegs rs) := by
  induction rs generalizing s with
  | nil => exact fun _ _ => rfl
  | cons r rs ih =>
    intro k hk
    exact (ih _ k hk).trans (sameHigh_setLo s r _ k hk)

theorem mem_freeRegs (s : State) (rs : List (BitVec 3)) : (s.freeRegs rs).mem = s.mem := by
  obtain ⟨r, k, h⟩ := State.freeRegs_keeps rs s
  rw [h]

/-- The state of a `POP` or `LDM` that traps: only registers without their values, after some reads. -/
theorem cutShort_freeRegs {s t : State} (hkeeps : ReadKeeps s t) (rs : List (BitVec 3)) :
    Precise s (t.freeRegs rs) ∧ (t.freeRegs rs).mem = s.mem ∧ sameHigh s (t.freeRegs rs) := by
  refine ⟨(precise_of_read hkeeps).trans (precise_freeRegs t rs), ?_, fun k hk => ?_⟩
  · rw [mem_freeRegs, hkeeps]
  · rw [sameHigh_freeRegs t rs k hk, hkeeps]

theorem regs_of_access {s t : State} (h : AccessKeeps s t) : t.regs = s.regs := by rw [h.1]

/-- `n` of a list's registers. -/
theorem listedRegs_length (list : BitVec 8) : (listedRegs list).length = listCount list := by
  have hval : ([0, 1, 2, 3, 4, 5, 6, 7] : List (BitVec 3)).map BitVec.toNat = List.range 8 := by decide
  rw [listCount, ← hval, List.filter_map, List.length_map]
  rfl

theorem popCount_eq (list : BitVec 9) :
    popCount list = listCount (list.setWidth 8) + if list.getLsbD 8 then 1 else 0 := by
  rw [popCount, listedRegs_length]

theorem execPush_runs (list : BitVec 9) (s : State) : Runs (.push list) s (execPush list s) := by
  unfold execPush
  split
  · exact .refused _
  · simp only
    have hstart := undisturbed_pushStart s (s.pushSlots list)
    have hregs : (s.pushStart (s.pushSlots list)).regs = s.regs ∧ (s.pushStart (s.pushSlots list)).mem = s.mem := by
      unfold State.pushStart
      split <;> exact ⟨rfl, rfl⟩
    rcases writeSlots_cases (s.pushOrder (s.pushSlots list)) (s.pushStart (s.pushSlots list)) with
      ⟨t, h, hkeeps⟩ | ⟨x, t, h, hkeeps, -⟩
    · rw [h]
      exact .undisturbed ((hstart.trans (precise_of_access hkeeps)).toUndisturbed.trans
        ((undisturbed_setSp t _).trans (undisturbed_advance (by decide))))
    · rw [h]
      refine .traps x (hstart.trans ((precise_of_access hkeeps).trans (precise_freeSlots t _)))
        (.push ?_ fun a ha => ?_)
      · rw [regs_of_access (State.freeSlots_keeps _ t), regs_of_access hkeeps, hregs.1]
      · have hperm : ∀ slot ∈ s.pushOrder (s.pushSlots list), slot ∈ s.pushSlots list := fun slot hs => by
          unfold State.pushOrder at hs
          split at hs
          · exact hs
          · exact (freeOrder_perm _ _ _).mem_iff.mp hs
        obtain ⟨-, hout⟩ := writeSlots_outside _ _ a fun slot hs => ha slot (hperm slot hs)
        rw [State.freeSlots_outside _ t a ha, hout x t h, hregs.2]

theorem execPop_runs (list : BitVec 9) (s : State) : Runs (.pop list) s (execPop list s) := by
  unfold execPop
  split
  · exact .refused _
  · simp only
    rcases readWords_cases s.sp (popCount list) s with ⟨vs, t, h, hkeeps, hlen⟩ | ⟨x, t, h, hkeeps, -⟩
    · rw [h]
      have hdone : Undisturbed s ((t.setValues (listedRegs (list.setWidth 8)) vs).setSp
          (s.sp + wordsLong (popCount list))) :=
        (precise_of_read hkeeps).toUndisturbed.trans ((undisturbed_setValues t _ vs).trans (undisturbed_setSp _ _))
      simp only
      split
      · next h8 =>
        split
        · next hexc =>
          refine .returns _ hexc (.inr (.inr ⟨list, vs, t, rfl, h8, h, ?_⟩)) hdone
          rw [listedRegs_length, List.getD_eq_getElem?_getD, List.getElem?_eq_getElem, Option.getD_some]
          rw [hlen, popCount_eq, if_pos h8]
          exact Nat.lt_succ_self _
        · split
          · exact .undisturbed (hdone.trans (undisturbed_pc fun _ => clearBit0_clearBit0 _))
          · obtain ⟨hprecise, hmem, hhigh⟩ := cutShort_freeRegs hkeeps (listedRegs (list.setWidth 8))
            exact .traps _ hprecise (.pop hmem hhigh)
      · exact .undisturbed (hdone.trans (undisturbed_advance (by decide)))
    · rw [h]
      obtain ⟨hprecise, hmem, hhigh⟩ := cutShort_freeRegs hkeeps (listedRegs (list.setWidth 8))
      exact .traps x hprecise (.pop hmem hhigh)

theorem execLdm_runs (rn : BitVec 3) (list : BitVec 8) (s : State) : Runs (.ldm rn list) s (execLdm rn list s) := by
  unfold execLdm
  split
  · exact .refused _
  · simp only
    rcases readWords_cases (s.lo rn) (listedRegs list).length s with ⟨vs, t, h, hkeeps, -⟩ | ⟨x, t, h, hkeeps, -⟩
    · rw [h]
      have hdone : Undisturbed s (t.setValues (listedRegs list) vs) :=
        (precise_of_read hkeeps).toUndisturbed.trans (undisturbed_setValues t _ vs)
      simp only
      split
      · exact .undisturbed (hdone.trans (undisturbed_advance (by decide)))
      · exact .undisturbed (hdone.trans ((undisturbed_setLo _ rn _).trans (undisturbed_advance (by decide))))
    · rw [h]
      obtain ⟨hprecise, hmem, hhigh⟩ := cutShort_freeRegs hkeeps ((listedRegs list).filter (· ≠ rn))
      refine .traps x hprecise (.ldm hmem hhigh ?_)
      rw [State.lo_freeRegs _ t (by simp), State.lo, hkeeps]
      rfl

theorem execStm_runs (rn : BitVec 3) (list : BitVec 8) (s : State) : Runs (.stm rn list) s (execStm rn list s) := by
  unfold execStm
  split
  · exact .refused _
  · split
    · exact .refused _
    · simp only
      rcases writeWords_cases (s.lo rn) (s.values (listedRegs list)) s with ⟨t, h, hkeeps⟩ | ⟨x, t, h, hkeeps, -⟩
      · rw [h]
        exact .undisturbed ((precise_of_access hkeeps).toUndisturbed.trans
          ((undisturbed_setLo t rn _).trans (undisturbed_advance (by decide))))
      · rw [h]
        obtain ⟨k, hk, hw⟩ := writeWords_trap h
        rw [State.values, List.length_map] at hk
        exact .traps x (precise_of_access hkeeps) (.stm (regs_of_access hkeeps) hk hw)

/-! ### Special registers -/

/-- A write of a special register: the flags, a stack pointer, the mask, or `SPSEL` in Thread mode (R273). -/
theorem writeSpecial_completes (s : State) (rn : BitVec 4) (sysm : BitVec 8) (v : Word) :
    Completes (.msr rn sysm) s (s.writeSpecial sysm v) := by
  have hf : ∀ {p : Prop}, writesFlags (.msr rn sysm) = false → p := fun h => by cases h
  unfold State.writeSpecial
  split_ifs with h0 h8 h9 h16 h20 hmode
  · exact ⟨id, rfl, rfl, rfl, rfl, rfl, rfl, fun _ => rfl, hf⟩
  · exact ⟨fun ⟨hmem, hpc, _, hpsp, hspsel⟩ => ⟨hmem, hpc, alignWord_alignWord v, hpsp, hspsel⟩, rfl, rfl, rfl, rfl,
      rfl, rfl, fun _ => rfl, hf⟩
  · exact ⟨fun ⟨hmem, hpc, hmsp, _, hspsel⟩ => ⟨hmem, hpc, hmsp, alignWord_alignWord v, hspsel⟩, rfl, rfl, rfl, rfl,
      rfl, rfl, fun _ => rfl, hf⟩
  · refine ⟨id, rfl, rfl, rfl, rfl, rfl, rfl, fun h => ?_, hf⟩
    rw [h16] at h
    cases h
  · refine ⟨fun ⟨hmem, hpc, hmsp, hpsp, _⟩ => ⟨hmem, hpc, hmsp, hpsp, fun h => ?_⟩, rfl, rfl, rfl, rfl, rfl, rfl,
      fun _ => rfl, hf⟩
    exact absurd (hmode.symm.trans h) (by decide)
  · exact ⟨id, rfl, rfl, rfl, rfl, rfl, rfl, fun _ => rfl, hf⟩
  · exact ⟨id, rfl, rfl, rfl, rfl, rfl, rfl, fun _ => rfl, hf⟩

theorem execMsr_runs (rn : BitVec 4) (sysm : BitVec 8) (s : State) : Runs (.msr rn sysm) s (execMsr rn sysm s) := by
  unfold execMsr
  split
  · exact .refused _
  · split
    · have hw := writeSpecial_completes s rn sysm (s.reg rn)
      have hadv : Undisturbed (s.writeSpecial sysm (s.reg rn)) ((s.writeSpecial sysm (s.reg rn)).advance 4) :=
        undisturbed_advance (by decide)
      exact .completes ⟨hadv.inv ∘ hw.inv, hw.cfg, hw.mode, hw.ipsr, hw.epsrT, hw.active, hw.lockup, hw.pm, hw.flags⟩
    · exact .refused _

theorem execMrs_runs (rd : BitVec 4) (sysm : BitVec 8) (s : State) : Runs (.mrs rd sysm) s (execMrs rd sysm s) := by
  unfold execMrs
  split
  · exact .refused _
  · split
    · exact .undisturbed ((undisturbed_setReg s rd _).trans (undisturbed_advance (by decide)))
    · exact .refused _

/-! ### Every instruction -/

/-- What every instruction can do, by the shape of its meaning. -/
theorem exec_runs (i : Instr) (s : State) : Runs i s (exec i s) := by
  cases i
  case movImm | addImm8 | subImm8 | addImm3 | subImm3 | addReg | subReg | neg | mul | lslImm | lslReg | lsrReg | mvn
      | andReg | orrReg | eorReg | asrReg | bic | ror | adc | sbc | nop =>
    exact .result rfl ..
  case cmpImm | cmpReg | cmn | tst => exact .resultFlags rfl _
  case lsrImm | asrImm => exact .rightShift rfl ..
  case adr | addSp | rev | rev16 | revsh | sxtb | sxth | uxtb | uxth => exact .setLo ..
  case dmb | dsb | yieldHint => exact .advance (by decide)
  case spAdd | spSub => exact .undisturbed ((undisturbed_setSp s _).trans (undisturbed_advance (by decide)))
  case ldrbImm | ldrhImm | ldrImm | ldrPc | ldrbReg | ldrsbReg | ldrhReg | ldrshReg | ldrReg | ldrSp =>
    exact .loadTo (by nofun) ..
  case strbImm | strhImm | strImm | strbReg | strhReg | strReg | strSp => exact .storeFrom (by nofun) ..
  case ifZero | ifNonZero | ifCond => exact .branchIf ..
  case bkpt | svc => exact .raise (by nofun) _
  case wfi => exact .undisturbed (undisturbed_tryWait s _)
  case push list => exact execPush_runs list s
  case pop list => exact execPop_runs list s
  case ldm rn list => exact execLdm_runs rn list s
  case stm rn list => exact execStm_runs rn list s
  case mrs rd sysm => exact execMrs_runs rd sysm s
  case msr rn sysm => exact execMsr_runs rn sysm s
  case movReg rd rm =>
    simp only [exec, execMovReg]
    split
    · exact .undisturbed (undisturbed_setReg s 15 _)
    · exact .undisturbed ((undisturbed_setReg s rd _).trans (undisturbed_advance (by decide)))
  case addHi rd rm =>
    simp only [exec, execAddHi]
    split_ifs
    · exact .refused _
    · exact .undisturbed (undisturbed_setReg s 15 _)
    · exact .undisturbed ((undisturbed_setReg s rd _).trans (undisturbed_advance (by decide)))
  case cmpHi rn rm =>
    simp only [exec, execCmpHi]
    split_ifs
    · exact .refused _
    · exact .refused _
    · exact .resultFlags rfl _
  case gotoImm n11 => exact .undisturbed (undisturbed_pc fun h => clearBit0_branchTarget h _)
  case gosubImm n22 =>
    have hpc : Undisturbed s { s with pc := s.branchTarget (n22.signExtend 32) } :=
      undisturbed_pc fun h => clearBit0_branchTarget h _
    exact .undisturbed ⟨hpc.inv, rfl, rfl, rfl, rfl, rfl, rfl, rfl, rfl⟩
  case gotoReg rm =>
    simp only [exec, execGotoReg]
    split
    · exact .refused _
    · exact .branchTo (by nofun) (.inl ⟨rm, rfl, rfl⟩)
  case ret => exact .branchTo (by nofun) (.inr (.inl ⟨rfl, rfl⟩))
  case gosubReg rm =>
    simp only [exec, execGosubReg]
    split_ifs
    · exact .refused _
    · have hpc : Undisturbed s { s with pc := clearBit0 (s.reg rm) } := undisturbed_pc fun _ => clearBit0_clearBit0 _
      exact .undisturbed ⟨hpc.inv, rfl, rfl, rfl, rfl, rfl, rfl, rfl, rfl⟩
    · exact .raise (by nofun) _
  case cpsid | cpsie =>
    have hadv : Undisturbed s (s.advance 2) := undisturbed_advance (by decide)
    exact .completes ⟨hadv.inv, rfl, rfl, rfl, rfl, rfl, rfl, (by intro h; cases h), fun _ => rfl⟩
  case isb =>
    have hadv : Undisturbed s (s.advance 4) := undisturbed_advance (by decide)
    exact .undisturbed ⟨hadv.inv, rfl, rfl, rfl, rfl, rfl, rfl, rfl, rfl⟩
  case sev =>
    have hadv : Undisturbed s (s.advance 2) := undisturbed_advance (by decide)
    exact .undisturbed ⟨hadv.inv, rfl, rfl, rfl, rfl, rfl, rfl, rfl, rfl⟩
  case wfe =>
    simp only [exec, execWfe]
    split
    · have hadv : Undisturbed s (s.advance 2) := undisturbed_advance (by decide)
      exact .undisturbed ⟨hadv.inv, rfl, rfl, rfl, rfl, rfl, rfl, rfl, rfl⟩
    · exact .undisturbed (undisturbed_tryWait s _)

/-- An instruction with a next state completes, takes an exception for a trap, or is an exception return. -/
theorem exec_next {i : Instr} {s t : State} (h : exec i s = .next t) :
    Completes i s t ∨
    (s.cfg.trapModel = .armv6m ∧ ∃ u, Precise s u ∧ TakenFrom [3, 11] u t) ∨
    (∃ v u, s.isExceptionReturn v = true ∧ GivesPc s i v ∧ Undisturbed s u ∧ t = exceptionReturn v u) := by
  have hruns := exec_runs i s
  rw [h] at hruns
  generalize ho : (Host.Outcome.next t : Host.Outcome State Fault Refusal) = o at hruns
  cases hruns with
  | refused r => cases ho
  | completes hdone =>
    cases ho
    exact .inl hdone
  | @traps x u hkeeps _ =>
    rcases raise_cases x u with ⟨-, hraise⟩ | ⟨hm, v, hraise, htaken⟩
    · rw [hraise] at ho
      cases ho
    · rw [hraise] at ho
      cases ho
      exact .inr (.inl ⟨hkeeps.cfg ▸ hm, u, hkeeps, htaken⟩)
  | @returns v u hexc hv hkeeps =>
    cases ho
    exact .inr (.inr ⟨v, u, hexc, hv, hkeeps, rfl⟩)

theorem faultState_toFault (x : Trap) (s : State) : faultState (x.toFault s) = s := by
  cases x <;> rfl

/-- A fault of an instruction is a trap with `TRAP_MODEL = terminal`, in the state it leaves. -/
theorem exec_fault {i : Instr} {s : State} {f : Fault} (h : exec i s = .fault f) :
    Precise s (faultState f) ∧ CutShort i s (faultState f) := by
  have hruns := exec_runs i s
  rw [h] at hruns
  generalize ho : (Host.Outcome.fault f : Host.Outcome State Fault Refusal) = o at hruns
  cases hruns with
  | refused r => cases ho
  | completes => cases ho
  | returns => cases ho
  | @traps x t hkeeps hcut =>
    rcases raise_cases x t with ⟨-, hraise⟩ | ⟨-, u, hraise, -⟩
    · rw [hraise] at ho
      cases ho
      rw [faultState_toFault]
      exact ⟨hkeeps, hcut⟩
    · rw [hraise] at ho
      cases ho

end Sys2Proof.Claims

/-! PROOFS. The invariant (R24, R25, R36, R38), the precision of terminal traps (R293), and what instructions do to the
mode, the flags and the mask (R30, R292, R296, R309, R311): each from `exec_runs` and what an exception's entry and
return do. -/

namespace Sys2Proof.Claims
open Sys2Proof.Machine

/-! ### The invariant -/

/-- From the first state to the second the invariant is kept, and every parameter. -/
def KeepsInv (s t : State) : Prop := (s.Inv → t.Inv) ∧ t.cfg = s.cfg

theorem KeepsInv.refl (s : State) : KeepsInv s s := ⟨id, rfl⟩

theorem KeepsInv.trans {s t u : State} (h : KeepsInv s t) (k : KeepsInv t u) : KeepsInv s u :=
  ⟨k.1 ∘ h.1, k.2.trans h.2⟩

theorem Undisturbed.keepsInv {s t : State} (h : Undisturbed s t) : KeepsInv s t := ⟨h.inv, h.cfg⟩

theorem keepsInv_of_access {s t : State} (h : AccessKeeps s t) : KeepsInv s t := (precise_of_access h).keepsInv

theorem keepsInv_of_boundary {s t : State} (h : BoundaryKeeps s t) : KeepsInv s t := by
  rw [h]
  exact ⟨id, rfl⟩

theorem keepsInv_lockup (s : State) (b : Bool) : KeepsInv s { s with lockup := b } := ⟨id, rfl⟩

theorem keepsInv_resetRegisters (s : State) : KeepsInv s s.resetRegisters :=
  ⟨fun ⟨hmem, hpc, hmsp, _, _⟩ => ⟨hmem, hpc, hmsp, alignWord_alignWord _, fun _ => rfl⟩, rfl⟩

theorem keepsInv_resetSequence (s : State) : KeepsInv s (resetSequence s) := by
  rcases resetSequence_cases s with ⟨sp, entry, t, hkeeps, h⟩ | ⟨t, hkeeps, h⟩
  · have ht := (keepsInv_resetRegisters s).trans (keepsInv_of_access hkeeps.access)
    rw [h]
    exact ht.trans ⟨fun ⟨hmem, _, _, hpsp, hspsel⟩ =>
      ⟨hmem, clearBit0_clearBit0 entry, alignWord_alignWord sp, hpsp, hspsel⟩, rfl⟩
  · have ht := (keepsInv_resetRegisters s).trans (keepsInv_of_access hkeeps.access)
    rw [h]
    exact ht.trans (keepsInv_lockup t true)

/-- The entry of an exception leaves aligned pointers and an even `pc`, in Handler mode on the main stack (R309). -/
theorem inv_enterHandler {s0 t : State} (h0 : s0.Inv) (ht : t.Inv) (n : Nat) (v : Word) :
    (t.enterHandler s0 n v).Inv := by
  obtain ⟨-, -, hmsp0, hpsp0, -⟩ := h0
  obtain ⟨hmem, -, hmsp, hpsp, -⟩ := ht
  have hframe := alignWord_frameAddr hmsp0 hpsp0
  refine ⟨hmem, clearBit0_clearBit0 v, ?_, ?_, fun _ => rfl⟩
  · rw [State.enterHandler_msp]
    split <;> assumption
  · rw [State.enterHandler_psp]
    split <;> assumption

theorem keepsInv_takenFrom {ns : List Nat} {s t : State} (h : TakenFrom ns s t) : KeepsInv s t := by
  rcases h with ⟨s0, u, n, v, -, rfl, h0, hu⟩ | ⟨u, rfl, hu⟩
  · have hu' := keepsInv_of_access hu
    exact ⟨fun hs => inv_enterHandler ((keepsInv_of_access h0).1 hs) (hu'.1 hs) n v, hu'.2⟩
  · exact (keepsInv_of_access hu).trans (keepsInv_lockup u true)

/-- The five registers of a frame. -/
theorem undisturbed_frameRegisters (s : State) (r0 r1 r2 r3 r12 : Word) :
    Undisturbed s (((((s.setLo 0 r0).setLo 1 r1).setLo 2 r2).setLo 3 r3).setReg 12 r12) :=
  ((((undisturbed_setLo s 0 r0).trans (undisturbed_setLo _ 1 r1)).trans (undisturbed_setLo _ 2 r2)).trans
    (undisturbed_setLo _ 3 r3)).trans (undisturbed_setReg _ 12 r12)

/-- A return leaves aligned pointers and an even `pc`; only one to Thread mode is on the process stack (R311). -/
theorem keepsInv_leaveHandler (s : State) {exc frame : Word} (hframe : s.Inv → alignWord frame = frame)
    (r0 r1 r2 r3 r12 lr pc psr : Word) : KeepsInv s (s.leaveHandler exc frame r0 r1 r2 r3 r12 lr pc psr) := by
  have hregs := undisturbed_frameRegisters s r0 r1 r2 r3 r12
  refine ⟨fun hs => ?_, hregs.cfg⟩
  have hstack := alignWord_stackAfterReturn psr (hframe hs)
  obtain ⟨hmem, -, -, -, -⟩ := hregs.inv hs
  obtain ⟨-, -, hmsp, hpsp, -⟩ := hs
  refine ⟨hmem, clearBit0_clearBit0 pc, ?_, ?_, ?_⟩
  · simp only [State.leaveHandler]
    split <;> assumption
  · simp only [State.leaveHandler]
    split <;> assumption
  · simp only [State.leaveHandler]
    split
    · next h => rw [h]; exact fun _ => rfl
    · exact fun h => by cases h

theorem keepsInv_exceptionReturn (exc : Word) (s : State) : KeepsInv s (exceptionReturn exc s) := by
  rcases exceptionReturn_cases exc s with ⟨t, r0, r1, r2, r3, r12, lr, pc, psr, -, -, h, hkeeps⟩ | h
  · have ht : KeepsInv s t := keepsInv_of_access hkeeps.access
    have hmsp : t.msp = s.msp := by rw [hkeeps]
    have hpsp : t.psp = s.psp := by rw [hkeeps]
    rw [h]
    refine ht.trans (keepsInv_leaveHandler t (fun ⟨_, _, hm, hp, _⟩ => ?_) ..)
    rw [hmsp] at hm
    rw [hpsp] at hp
    split <;> assumption
  · exact keepsInv_takenFrom h

/-- An outcome that is a next state keeps the invariant. -/
def NextKeepsInv (s : State) (o : Host.Outcome State Fault Refusal) : Prop := ∀ t, o = .next t → KeepsInv s t

theorem NextKeepsInv.after {s t : State} {o : Host.Outcome State Fault Refusal} (h : KeepsInv s t)
    (k : NextKeepsInv t o) : NextKeepsInv s o := fun u hu => h.trans (k u hu)

theorem nextKeepsInv_next {s t : State} (h : KeepsInv s t) : NextKeepsInv s (.next t) := by
  rintro u ⟨⟩
  exact h

theorem nextKeepsInv_refused (s : State) (r : Refusal) : NextKeepsInv s (.refused r) := by
  rintro u ⟨⟩

theorem nextKeepsInv_raise (x : Trap) (s : State) : NextKeepsInv s (raise x s) := by
  rcases raise_cases x s with ⟨-, h⟩ | ⟨-, t, h, htaken⟩
  · rw [h]
    rintro u ⟨⟩
  · rw [h]
    exact nextKeepsInv_next (keepsInv_takenFrom htaken)

theorem nextKeepsInv_exec (i : Instr) (s : State) : NextKeepsInv s (exec i s) := by
  intro t h
  rcases exec_next h with hdone | ⟨-, u, hkeeps, htaken⟩ | ⟨v, u, -, -, hkeeps, rfl⟩
  · exact ⟨hdone.inv, hdone.cfg⟩
  · exact hkeeps.keepsInv.trans (keepsInv_takenFrom htaken)
  · exact hkeeps.keepsInv.trans (keepsInv_exceptionReturn v u)

theorem nextKeepsInv_thumbClear (s : State) : NextKeepsInv s (raiseThumbClear s) := by
  rcases raiseThumbClear_cases s with h | ⟨t, htaken, h⟩
  · rw [h]
    rintro u ⟨⟩
  · rw [h]
    refine nextKeepsInv_next ((keepsInv_takenFrom htaken).trans ?_)
    split
    · exact keepsInv_lockup t true
    · exact .refl t

theorem nextKeepsInv_runInstr (s : State) : NextKeepsInv s s.runInstr := by
  unfold State.runInstr
  split
  · rcases fetchInstr_cases s with ⟨x, t, h, hkeeps⟩ | h | ⟨h1, h2, t, h, hkeeps⟩
    · rw [h]
      exact (nextKeepsInv_raise x t).after (keepsInv_of_access hkeeps.access)
    · rw [h]
      exact nextKeepsInv_refused s _
    · rw [h]
      refine NextKeepsInv.after (keepsInv_of_access hkeeps.access) ?_
      simp only
      split
      · exact nextKeepsInv_exec _ t
      · exact nextKeepsInv_raise _ t
  · exact nextKeepsInv_thumbClear s

theorem keepsInv_takeException (n : Nat) (ret : Word) (s : State) : KeepsInv s (takeException n ret s) :=
  keepsInv_takenFrom (takeException_taken n ret s)

theorem nextKeepsInv_afterBoundary (s : State) : NextKeepsInv s s.afterBoundary := by
  unfold State.afterBoundary
  split
  · exact nextKeepsInv_next (keepsInv_resetSequence s)
  · split
    · split
      · exact nextKeepsInv_next (keepsInv_takeException 2 s.pc s)
      · exact nextKeepsInv_next (.refl s)
    · split
      · exact nextKeepsInv_next (undisturbed_tryWait s _).keepsInv
      · split
        · exact nextKeepsInv_next (keepsInv_takeException _ s.pc s)
        · exact nextKeepsInv_runInstr s

/-- Settles O6: the reset state is evaluated. -/
theorem resetMeetsTheInvariant : Obligations.ResetMeetsTheInvariant := by
  unfold Obligations.ResetMeetsTheInvariant State.Inv
  decide

/-- Settles O7: the boundary keeps the invariant, and so does each thing a step does after it. -/
theorem everyStepKeepsTheInvariant : Obligations.EveryStepKeepsTheInvariant := by
  intro s t hs hstep
  obtain ⟨hinv, hcfg⟩ :=
    (nextKeepsInv_afterBoundary s.boundary).after (keepsInv_of_boundary (State.boundary_keeps s)) t hstep
  exact ⟨hinv hs, hcfg⟩

/-! ### Terminal traps (R293) -/

theorem slotsFrom_mem {a : Word} {vs : List Word} {e : Word × Word} (h : e ∈ slotsFrom a vs) :
    ∃ k, ∃ hk : k < vs.length, e = (wordUp a k, vs[k]) := by
  induction vs generalizing a with
  | nil => cases h
  | cons v vs ih =>
    rcases List.mem_cons.mp h with rfl | h
    · exact ⟨0, by simp, by simp [wordUp]⟩
    · obtain ⟨k, hk, he⟩ := ih h
      refine ⟨k + 1, by simpa using hk, ?_⟩
      rw [he, wordUp, add_four_wordUp, wordUp, Nat.mul_succ, List.getElem_cons_succ]

/-- Stores of words reach no byte outside the words. -/
theorem writeWords_outside {a : Word} {vs : List Word} {s t : State} (h : writeWords a vs s = .ok () t) {n : Nat}
    (hn : vs.length ≤ n) : sameOutside s t a (4 * n) := by
  intro b hb
  rw [writeWords_eq_writeSlots] at h
  refine (writeSlots_outside (slotsFrom a vs) s b fun e he j hj => ?_).1 t h
  obtain ⟨k, hk, rfl⟩ := slotsFrom_mem he
  rw [wordUp, add_wordUp]
  exact hb _ (by omega)

/-- Settles O49: `exec_fault`, and what each transfer cut short may have done. -/
theorem terminalTrapsArePrecise : Obligations.TerminalTrapsArePrecise := by
  intro s i f hexec t
  obtain ⟨hkeeps, hcut⟩ : Precise s t ∧ CutShort i s t := exec_fault hexec
  clear_value t
  refine ⟨hkeeps.flags, hkeeps.lr, hkeeps.msp, hkeeps.psp, hkeeps.pc, hkeeps.pm, hkeeps.spsel, hkeeps.mode, hkeeps.ipsr,
    hkeeps.active, ?_⟩
  cases hcut with
  | nothing _ hstm =>
    exact ⟨fun _ _ => rfl, fun _ _ => rfl, fun _ _ => rfl, fun _ _ _ => rfl, fun _ _ _ _ => rfl,
      fun rn list h => absurd h (hstm rn list)⟩
  | pop hmem hhigh =>
    exact ⟨hhigh, fun h => absurd rfl (h _), fun _ _ => hmem, by nofun, by nofun, by nofun⟩
  | ldm hmem hhigh hbase =>
    refine ⟨hhigh, fun _ h => absurd rfl (h _ _), fun _ _ => hmem, ?_, by nofun, by nofun⟩
    rintro rn list ⟨⟩
    exact hbase
  | push hregs hmem =>
    refine ⟨fun k _ => by rw [hregs], fun _ _ => hregs, fun h => absurd rfl (h _), by nofun, ?_, by nofun⟩
    rintro list ⟨⟩
    exact hmem
  | stm hregs hk hstored =>
    refine ⟨fun k _ => by rw [hregs], fun _ _ => hregs, fun _ h => absurd rfl (h _ _), by nofun, by nofun, ?_⟩
    rintro rn list ⟨⟩
    rw [listedRegs_length] at hk
    exact ⟨writeWords_outside hstored (by rw [List.length_take]; omega), _, hk, hstored⟩

/-! ### The mode, the flags and the mask -/

theorem takenFrom_pm {ns : List Nat} {s t : State} (h : TakenFrom ns s t) : t.pm = s.pm := by
  rcases h with ⟨s0, u, n, v, -, rfl, -, hu⟩ | ⟨u, rfl, hu⟩
  · exact (precise_of_access hu).pm
  · exact (precise_of_access hu).pm

theorem takenFrom_flags {ns : List Nat} {s t : State} (h : TakenFrom ns s t) : t.flags = s.flags := by
  rcases h with ⟨s0, u, n, v, -, rfl, -, hu⟩ | ⟨u, rfl, hu⟩
  · exact (precise_of_access hu).flags
  · exact (precise_of_access hu).flags

/-- An exception that is taken leads to Handler mode, or to Lockup in the mode it was (R309, R313). -/
theorem takenFrom_mode {ns : List Nat} {s t : State} (h : TakenFrom ns s t) : t.mode = .handler ∨ t.mode = s.mode := by
  rcases h with ⟨s0, u, n, v, -, rfl, -, -⟩ | ⟨u, rfl, hu⟩
  · exact .inl rfl
  · exact .inr (precise_of_access hu).mode

/-- From Thread mode an exception that is taken enters a handler of its list, with the `EXC_RETURN` of the stack in
use (R309). -/
theorem takenFrom_thread {ns : List Nat} {s t : State} (h : TakenFrom ns s t) (hs : s.mode = .thread)
    (ht : t.mode = .handler) :
    ∃ n ∈ ns, t.active = n :: s.active ∧ t.ipsr = BitVec.ofNat 6 n ∧ t.spsel = false ∧
      t.lr = if s.spsel then 0xFFFFFFFD else 0xFFFFFFF9 := by
  rcases h with ⟨s0, u, n, v, hn, rfl, h0, hu⟩ | ⟨u, rfl, hu⟩
  · refine ⟨n, hn, ?_, rfl, rfl, ?_⟩
    · rw [State.enterHandler_active, (precise_of_access hu).active]
    · have h0' := precise_of_access h0
      rw [State.enterHandler_lr, excReturn_eq, h0'.mode, hs, h0'.spsel]
      rfl
  · rw [(precise_of_access hu).mode, hs] at ht
    cases ht

theorem exceptionReturn_pm (exc : Word) (s : State) : (exceptionReturn exc s).pm = s.pm := by
  rcases exceptionReturn_cases exc s with ⟨t, r0, r1, r2, r3, r12, lr, pc, psr, -, -, h, hkeeps⟩ | h
  · rw [h]
    exact (undisturbed_frameRegisters t r0 r1 r2 r3 r12).pm.trans (precise_of_read hkeeps).pm
  · exact takenFrom_pm h

/-- Only a return with one of two values of `EXC_RETURN` leads out of Handler mode (R311). -/
theorem exceptionReturn_thread {exc : Word} {s : State} (hs : s.mode = .handler)
    (ht : (exceptionReturn exc s).mode = .thread) : exc = 0xFFFFFFF9#32 ∨ exc = 0xFFFFFFFD#32 := by
  rcases exceptionReturn_cases exc s with ⟨t, r0, r1, r2, r3, r12, lr, pc, psr, hlegal, -, h, -⟩ | h
  · rw [h] at ht
    simp only [legalExcReturn, Bool.or_eq_true, beq_iff_eq] at hlegal
    rcases hlegal with (rfl | rfl) | rfl
    · cases ht
    · exact .inl rfl
    · exact .inr rfl
  · rcases takenFrom_mode h with hm | hm
    · rw [hm] at ht
      cases ht
    · rw [hm, hs] at ht
      cases ht

theorem isExceptionReturn_iff (s : State) (v : Word) :
    s.isExceptionReturn v = true ↔ s.cfg.trapModel = .armv6m ∧ s.mode = .handler ∧ v.extractLsb' 28 4 = 0xF#4 := by
  simp [State.isExceptionReturn, and_assoc]

/-- An ordinary address is no exception return (R296, R311). -/
theorem isExceptionReturn_ordinary {s : State} {v : Word} (h : ordinaryTarget s v) : s.isExceptionReturn v = false := by
  rw [← Bool.not_eq_true, isExceptionReturn_iff]
  rintro ⟨hm, hmode, hv⟩
  rcases h with h | h | h
  · rw [hm] at h; cases h
  · rw [hmode] at h; cases h
  · exact h hv

/-- Settles O57: the three ways to a next state of `exec_next`. -/
theorem onlyEntryAndReturnChangeTheMode : Obligations.OnlyEntryAndReturnChangeTheMode := by
  intro s t i hexec
  rcases exec_next hexec with hdone | ⟨hm, u, hkeeps, htaken⟩ | ⟨v, u, hexc, hv, hkeeps, rfl⟩
  · refine ⟨fun _ => ⟨hdone.mode, hdone.ipsr, hdone.epsrT, hdone.active, hdone.lockup⟩, fun hs ht => ?_,
      fun hs ht => ?_⟩
    · rw [hdone.mode, hs] at ht; cases ht
    · rw [hdone.mode, hs] at ht; cases ht
  · refine ⟨fun h => ?_, fun hs ht => ?_, fun hs ht => ?_⟩
    · rw [hm] at h; cases h
    · obtain ⟨n, hn, hactive, hipsr, hspsel, hlr⟩ := takenFrom_thread htaken (hkeeps.mode.trans hs) ht
      rw [hkeeps.active] at hactive
      rw [hkeeps.spsel] at hlr
      exact ⟨n, by simpa using hn, hactive, hipsr, hspsel, hlr⟩
    · rcases takenFrom_mode htaken with h | h
      · rw [h] at ht; cases ht
      · rw [h, hkeeps.mode, hs] at ht; cases ht
  · obtain ⟨hm, hmode, -⟩ := (isExceptionReturn_iff s v).mp hexc
    refine ⟨fun h => ?_, fun hs => ?_, fun _ ht => ⟨hm, v, ?_, hv⟩⟩
    · rw [hm] at h; cases h
    · rw [hmode] at hs; cases hs
    · exact exceptionReturn_thread (hkeeps.mode.trans hmode) ht

/-- An instruction whose values for `pc` are all ordinary addresses keeps the flags unless it writes them. -/
theorem exec_flags {i : Instr} {s t : State} (h : exec i s = .next t) (hi : writesFlags i = false)
    (hv : ∀ v, GivesPc s i v → ordinaryTarget s v) : t.flags = s.flags := by
  rcases exec_next h with hdone | ⟨-, u, hkeeps, htaken⟩ | ⟨v, u, hexc, hgives, -, -⟩
  · exact hdone.flags hi
  · exact (takenFrom_flags htaken).trans hkeeps.flags
  · rw [isExceptionReturn_ordinary (hv v hgives)] at hexc
    cases hexc

theorem exec_pm {i : Instr} {s t : State} (h : exec i s = .next t) (hi : writesMask i = false) : t.pm = s.pm := by
  rcases exec_next h with hdone | ⟨-, u, hkeeps, htaken⟩ | ⟨v, u, -, -, hkeeps, rfl⟩
  · exact hdone.pm hi
  · exact (takenFrom_pm htaken).trans hkeeps.pm
  · exact (exceptionReturn_pm v u).trans hkeeps.pm

theorem writesMask_eq_false {i : Instr} (hd : i ≠ .cpsid) (he : i ≠ .cpsie) (hr : ∀ rn, i ≠ .msr rn 16) :
    writesMask i = false := by
  unfold writesMask
  split
  · exact absurd rfl hd
  · exact absurd rfl he
  · next rn sysm => exact beq_eq_false_iff_ne.mpr fun h => hr rn (by rw [h])
  · rfl

/-- The instructions that give a value they read to `pc` (R195, R198, R211). -/
def branchesToValue : Instr → Bool
  | .gotoReg _ | .ret | .pop _ => true
  | _ => false

theorem not_givesPc {s : State} {i : Instr} (hi : branchesToValue i = false) (v : Word) : ¬ GivesPc s i v := by
  rintro (⟨rm, rfl, -⟩ | ⟨rfl, -⟩ | ⟨list, -, -, rfl, -⟩)
  all_goals cases hi

/-- Settles O58: `exec_pm` and `exec_flags`. -/
theorem otherInstructionsKeepFlagsAndMask : Obligations.OtherInstructionsKeepFlagsAndMask := by
  intro s t i hexec
  refine ⟨fun hd he hr => exec_pm hexec (writesMask_eq_false hd he hr), ?_⟩
  have hflags : writesFlags i = false → branchesToValue i = false → t.flags = s.flags := fun hi hb =>
    exec_flags hexec hi fun v hv => absurd hv (not_givesPc hb v)
  cases i
  case gotoReg rm =>
    intro h
    refine exec_flags hexec rfl ?_
    rintro v (⟨rm, ⟨⟩, rfl⟩ | ⟨⟨⟩, -⟩ | ⟨_, _, _, ⟨⟩, -⟩)
    exact h
  case ret =>
    intro h
    refine exec_flags hexec rfl ?_
    rintro v (⟨_, ⟨⟩, -⟩ | ⟨-, rfl⟩ | ⟨_, _, _, ⟨⟩, -⟩)
    exact h
  case pop list =>
    intro h
    refine exec_flags hexec rfl ?_
    rintro v (⟨_, ⟨⟩, -⟩ | ⟨⟨⟩, -⟩ | ⟨list, vs, s1, ⟨⟩, h8, hread, hv⟩)
    exact h h8 vs s1 v hread hv
  case movImm | addImm8 | subImm8 | addImm3 | subImm3 | addReg | subReg | neg | mul | lslImm | lsrImm | lslReg | lsrReg
      | mvn | andReg | orrReg | eorReg | cmpImm | cmpHi | cmpReg | cmn | tst | asrImm | asrReg | bic | ror | adc | sbc
      | nop | msr =>
    exact trivial
  all_goals exact hflags rfl rfl

end Sys2Proof.Claims

/-! PROOFS. Moves, sums on any register, addresses, bytes, branches and special registers (R22 to R38, R85, R110, R111,
R122, R123, R129, R190 to R198, R212 to R214, R225 to R227, R265 to R276): the meanings in the words of the claims. -/

namespace Sys2Proof.Claims
open Sys2Proof.Machine

/-! ### Writes to the sixteen registers (R22, R24, R36) -/

theorem sp_eq (s : State) : s.sp = if s.mode = .thread ∧ s.spsel = true then s.psp else s.msp :=
  if_congr (usesPsp_iff s) rfl rfl

theorem setSp_eq_withStack (s : State) (v : Word) : s.setSp v = withStack s v :=
  if_congr (usesPsp_iff s) rfl rfl

theorem setReg_eq_withRegister (s : State) {i : BitVec 4} (v : Word) (hi : i ≠ 15) :
    s.setReg i v = withRegister s i v := by
  unfold State.setReg withRegister
  split
  · rfl
  · next h13 =>
    split
    · exact setSp_eq_withStack s v
    · next hsp =>
      have h14 : i = 14 := by bv_omega
      rw [if_pos h14]

theorem withStack_pc (s : State) (v : Word) : (withStack s v).pc = s.pc := by
  rw [← setSp_eq_withStack, State.setSp_pc]

theorem withRegister_pc (s : State) (i : BitVec 4) (v : Word) : (withRegister s i v).pc = s.pc := by
  unfold withRegister
  split
  · rfl
  · split
    · exact withStack_pc s v
    · rfl

/-- The end of an instruction that writes any register but `PC`. -/
theorem setReg_advance (s : State) {i : BitVec 4} (v n : Word) (hi : i ≠ 15) :
    (s.setReg i v).advance n = { withRegister s i v with pc := s.pc + n } := by
  rw [setReg_eq_withRegister s v hi, State.advance, withRegister_pc]

/-- The end of an instruction that moves the stack pointer in use. -/
theorem setSp_advance (s : State) (v n : Word) : (s.setSp v).advance n = { withStack s v with pc := s.pc + n } := by
  rw [setSp_eq_withStack, State.advance, withStack_pc]

theorem setReg_pc (s : State) (v : Word) : s.setReg 15 v = { s with pc := v &&& ~~~1#32 } := rfl

/-! ### Moves (R110, R111) -/

/-- The flags of a byte: never negative, zero as the byte is. -/
theorem nzFlags_byte (f : Flags) (u8 : BitVec 8) : nzFlags f (u8.setWidth 32) = ⟨false, u8 == 0, f.c, f.v⟩ := by
  have hn : (u8.setWidth 32).msb = false := by
    rw [BitVec.msb_eq_false_iff_two_mul_lt, BitVec.toNat_setWidth]
    omega
  have hz : (u8.setWidth 32 == 0) = (u8 == 0) := by
    rw [Bool.eq_iff_iff, beq_iff_eq, beq_iff_eq]
    bv_omega
  rw [nzFlags, hn, hz]

/-- Settles O13: the flags by `nzFlags_byte`. -/
theorem moveImmediateWritesAByte : Obligations.MoveImmediateWritesAByte := by
  intro s rd u8
  rw [BitVec.ofNat_toNat, ← nzFlags_byte]
  rfl

/-- Settles O14: `setReg_advance`; what the sixteen read as is by definition, 13 by `sp_eq`. -/
theorem moveRegisterCopies : Obligations.MoveRegisterCopies := by
  intro s rd rm
  refine ⟨fun hrd => ?write, rfl, rfl, rfl, sp_eq s, fun i h => dif_pos h⟩
  case write => exact (if_neg hrd).trans (congrArg _ (setReg_advance s _ 2 hrd))

/-- Settles O26: the sum is written by `setReg_advance`, into `PC` as a branch. -/
theorem highRegisterAddition : Obligations.HighRegisterAddition := by
  intro s rd rm
  refine ⟨fun hrd => ?write, fun hrm => ?branch, rfl⟩
  case write =>
    have hboth : ¬ (rd = 15 ∧ rm = 15) := fun h => hrd h.1
    exact (if_neg hboth).trans ((if_neg hrd).trans (congrArg _ (setReg_advance s _ 2 hrd)))
  case branch =>
    have hboth : ¬ ((15 : BitVec 4) = 15 ∧ rm = 15) := fun h => hrm h.2
    exact if_neg hboth

/-! ### Products, bits and addresses -/

/-- Settles O18: narrowing is a ring homomorphism, of the naturals and of the integers. -/
theorem multiplyKeepsTheLowHalfOfTheProduct : Obligations.MultiplyKeepsTheLowHalfOfTheProduct := by
  intro s rd rm p
  have hp : p = s.lo rd * s.lo rm := by
    apply BitVec.eq_of_toNat_eq
    rw [BitVec.toNat_ofNat, BitVec.toNat_mul]
  refine ⟨by rw [hp]; rfl, ?_⟩
  rw [BitVec.ofInt_mul, BitVec.ofInt_toInt, BitVec.ofInt_toInt, hp]

/-- Settles O24: each result is its operation, bit by bit. -/
theorem logicWritesBitwiseResults : Obligations.LogicWritesBitwiseResults := by
  intro s rd rm
  refine ⟨⟨_, rfl, ?mvn⟩, ⟨_, rfl, ?and⟩, ⟨_, rfl, ?orr⟩, ⟨_, rfl, ?eor⟩, ⟨_, rfl, ?bic⟩⟩
  case mvn => exact fun k hk => BitVec.getLsbD_not.trans (by simp [hk])
  case and => exact fun k _ => BitVec.getLsbD_and
  case orr => exact fun k _ => BitVec.getLsbD_or
  case eor => exact fun k _ => BitVec.getLsbD_xor
  case bic => exact fun k hk => BitVec.getLsbD_and.trans (by simp [hk])

theorem wordOffset_eq {w : Nat} (u : BitVec w) (hw : w ≤ 8) :
    (u.setWidth 32 * 4 : Word) = BitVec.ofNat 32 (4 * u.toNat) := by
  have hu : u.toNat < 2 ^ 8 := u.isLt.trans_le (Nat.pow_le_pow_right (by decide) hw)
  apply BitVec.eq_of_toNat_eq
  have h4 : (4 : Word).toNat = 4 := rfl
  rw [BitVec.toNat_mul, BitVec.toNat_setWidth, h4, BitVec.toNat_ofNat, Nat.mod_eq_of_lt (a := u.toNat) (by omega),
    Nat.mul_comm]

/-- Settles O25: the addresses by `addrPc_eq` and `addrSp_eq`, the moves by `setSp_advance`. -/
theorem addressesOfNearbyWordsAndStackMoves : Obligations.AddressesOfNearbyWordsAndStackMoves := by
  intro s rd u8 u7
  have hoffset := wordOffset_eq u7 (by decide)
  refine ⟨?adr, ?addSp, ?spAdd, ?spSub⟩
  case adr => exact congrArg (fun a => Host.Outcome.next (wroteReg s rd a)) (addrPc_eq s u8)
  case addSp => exact congrArg (fun a => Host.Outcome.next (wroteReg s rd a)) (addrSp_eq s u8)
  case spAdd =>
    rw [← hoffset]
    exact congrArg _ (setSp_advance s _ 2)
  case spSub =>
    rw [← hoffset]
    exact congrArg _ (setSp_advance s _ 2)

/-! ### The order of compared values (R191) -/

theorem subFlags_z (a b : Word) : (subFlags a b).z = true ↔ a = b := by
  simp only [subFlags, beq_iff_eq]
  exact sub_eq_zero

theorem subFlags_c (a b : Word) : (subFlags a b).c = true ↔ b.toNat ≤ a.toNat := decide_eq_true_iff

/-- The sign of the difference is right exactly when the difference fits. -/
theorem subFlags_n_eq_v (a b : Word) : (subFlags a b).n = (subFlags a b).v ↔ b.toInt ≤ a.toInt := by
  have hsign : (subFlags a b).n = true ↔ (a - b).toInt < 0 := by
    rw [subFlags, BitVec.msb_eq_toInt, decide_eq_true_iff]
  have hover : (subFlags a b).v = true ↔ ¬ (-(2 ^ 31) ≤ a.toInt - b.toInt ∧ a.toInt - b.toInt < 2 ^ 31) := by
    simp only [subFlags, fitsSigned, Bool.not_eq_true', Bool.and_eq_false_iff, decide_eq_false_iff_not, not_and_or]
  have ha := BitVec.le_toInt a
  have ha' := BitVec.toInt_lt (x := a)
  have hb := BitVec.le_toInt b
  have hb' := BitVec.toInt_lt (x := b)
  rw [BitVec.toInt_sub, Int.bmod_def] at hsign
  rw [Bool.eq_iff_iff, hsign, hover]
  omega

/-- Settles O28: each condition by the flags it tests. -/
theorem conditionsOrderTheComparedValues : Obligations.ConditionsOrderTheComparedValues := by
  intro a b f
  have hz : f.z = true ↔ a = b := subFlags_z a b
  have hc : f.c = true ↔ b.toNat ≤ a.toNat := subFlags_c a b
  have hnv : f.n = f.v ↔ b.toInt ≤ a.toInt := subFlags_n_eq_v a b
  have hz' : f.z = false ↔ a ≠ b := by rw [← Bool.not_eq_true, hz]
  have hc' : f.c = false ↔ a.toNat < b.toNat := by rw [← Bool.not_eq_true, hc]; omega
  have hnat : a = b ↔ a.toNat = b.toNat := BitVec.toNat_inj.symm
  have hint : a = b ↔ a.toInt = b.toInt := BitVec.toInt_inj.symm
  refine ⟨hz, (Bool.not_eq_true' _).to_iff.trans hz', hc, (Bool.not_eq_true' _).to_iff.trans hc', ?hi, ?ls,
    (conditionPassed_10_iff f).trans hnv, ?lt, ?gt, ?le⟩
  case hi => rw [conditionPassed_8_iff, hz', hc, ne_eq, hnat]; omega
  case ls => rw [conditionPassed_9_iff, hz, hc', hnat]; omega
  case lt => rw [conditionPassed_11_iff, ne_eq, hnv]; omega
  case gt => rw [conditionPassed_12_iff, hz', hnv, ne_eq, hint]; omega
  case le => rw [conditionPassed_13_iff, hz, ne_eq, hnv, hint]; omega

/-! ### Branches (R85, R190 to R198) -/

theorem branchTarget_eq {w : Nat} (s : State) (n : BitVec w) :
    s.branchTarget (n.signExtend 32) = destination s n.toInt := by
  have hpc : BitVec.ofInt 32 (s.pc.toNat : Int) = s.pc := by
    rw [BitVec.ofInt_natCast, BitVec.ofNat_toNat, BitVec.setWidth_eq]
  rw [destination, BitVec.ofInt_add, BitVec.ofInt_add, BitVec.ofInt_mul, hpc, BitVec.mul_comm]
  rfl

theorem branchIf_eq (cond : BitVec 4) (n8 : BitVec 8) (s : State) :
    branchIf cond n8 s =
      .next { s with pc := if conditionPassed cond s.flags then destination s n8.toInt else s.pc + 2 } := by
  rw [← branchTarget_eq, branchIf]
  split <;> rfl

/-- Settles O34: `branchIf_eq` and `branchTarget_eq`. -/
theorem offsetBranchesReachTheirDestination : Obligations.OffsetBranchesReachTheirDestination := by
  intro s n8 n11 n22 cond
  refine ⟨branchIf_eq 0 n8 s, ?ifNonZero, fun _ => branchIf_eq cond n8 s, ?gotoImm, ?gosubImm⟩
  case ifNonZero =>
    refine (branchIf_eq 1 n8 s).trans ?_
    have h1 : conditionPassed 1 s.flags = !s.flags.z := rfl
    rw [h1]
    cases s.flags.z <;> rfl
  case gotoImm =>
    rw [← branchTarget_eq]
    rfl
  case gosubImm =>
    rw [← branchTarget_eq]
    rfl

theorem branchTo_odd {s : State} {v : Word} (hodd : v.getLsbD 0 = true) (hv : ordinaryTarget s v) :
    branchTo v s = .next { s with pc := v &&& ~~~1#32 } := by
  rw [branchTo, if_neg (Bool.eq_false_iff.mp (isExceptionReturn_ordinary hv)), if_pos hodd]
  rfl

/-- Settles O35: `branchTo_odd`; `GOSUB Rm` tests bit 0 only. -/
theorem registerBranchesReachOddTargets : Obligations.RegisterBranchesReachOddTargets := by
  intro s rm hrm
  exact ⟨fun hodd hv => (if_neg hrm).trans (branchTo_odd hodd hv), fun hodd => (if_neg hrm).trans (if_pos hodd),
    branchTo_odd⟩

/-! ### Bytes (R225 to R227, R265 to R268) -/

theorem append_toNat {n m : Nat} (x : BitVec n) (y : BitVec m) : (x ++ y).toNat = x.toNat * 2 ^ m + y.toNat := by
  rw [BitVec.toNat_append, Nat.shiftLeft_eq, Nat.mul_comm, Nat.two_pow_add_eq_or_of_lt y.isLt]

/-- Four bytes as the sum of their powers of 256. -/
theorem fourBytes_eq (x y z u : Byte) :
    x ++ y ++ z ++ u = BitVec.ofNat 32 (x.toNat * 2 ^ 24 + y.toNat * 2 ^ 16 + z.toNat * 2 ^ 8 + u.toNat) := by
  apply BitVec.eq_of_toNat_eq
  rw [append_toNat, append_toNat, append_toNat, BitVec.toNat_ofNat]
  omega

theorem twoBytes_eq (x y : Byte) : x ++ y = BitVec.ofNat 16 (x.toNat * 2 ^ 8 + y.toNat) := by
  apply BitVec.eq_of_toNat_eq
  rw [append_toNat, BitVec.toNat_ofNat]
  omega

/-- Settles O43: a word's bytes by `extract_byte_toNat`, put together by `fourBytes_eq` and `twoBytes_eq`. -/
theorem byteOperationsRearrangeBytes : Obligations.ByteOperationsRearrangeBytes := by
  intro s rd rm v byte
  have hbyte : ∀ k, byte k = (v.extractLsb' (8 * k) 8).toNat := fun k => (extract_byte_toNat v k).symm
  have hlow : ∀ w, BitVec.ofNat 32 (v.toNat % 2 ^ w) = (v.extractLsb' 0 w).setWidth 32 := fun w => by
    rw [← BitVec.ofNat_toNat, BitVec.extractLsb'_toNat, Nat.shiftRight_zero]
  simp only [hbyte, ← fourBytes_eq, ← twoBytes_eq, hlow, BitVec.ofNat_toNat]
  exact ⟨rfl, rfl, rfl, rfl, rfl, rfl, rfl⟩

/-! ### Mask, events and barriers -/

/-- Settles O44: each is its meaning. -/
theorem maskEventAndBarrierInstructions : Obligations.MaskEventAndBarrierInstructions := fun _ _ =>
  ⟨rfl, rfl, rfl, rfl, rfl, rfl, rfl⟩

/-! ### Special registers (R35 to R40, R272, R273) -/

theorem toWord_eq_flagsWord (f : Flags) : f.toWord = flagsWord f := by
  apply BitVec.eq_of_getLsbD_eq
  intro i hi
  simp only [Flags.toWord, flagsWord, BitVec.getLsbD_or, BitVec.getLsbD_append, bitAt_getLsbD, BitVec.getLsbD_ofBool,
    BitVec.getLsbD_zero]
  interval_cases i <;> simp

/-- The numbers of special registers (R40). -/
def specialNumbers : List Nat := [0, 1, 2, 3, 5, 6, 7, 8, 9, 16, 20]

theorem specialNumber_iff (sysm : BitVec 8) : specialNumber sysm = true ↔ sysm.toNat ∈ specialNumbers := by
  revert sysm
  decide

theorem specialContent_reserved (s : State) {n : Nat} (h : n ∉ specialNumbers) : specialContent s n = none := by
  unfold specialContent
  split
  case h_12 => rfl
  all_goals exact absurd (by decide) h

theorem specialWritten_reserved (s : State) (v : Word) {n : Nat} (h : n ∉ specialNumbers) :
    specialWritten s v n = none := by
  unfold specialWritten
  split
  case h_12 => rfl
  all_goals exact absurd (by decide) h

theorem mem_specialNumbers {sysm : BitVec 8} (h : specialNumber sysm = true) :
    sysm = 0 ∨ sysm = 1 ∨ sysm = 2 ∨ sysm = 3 ∨ sysm = 5 ∨ sysm = 6 ∨ sysm = 7 ∨ sysm = 8 ∨ sysm = 9 ∨ sysm = 16 ∨
      sysm = 20 := by
  simpa [specialNumber] using h

theorem readSpecial_content (s : State) {sysm : BitVec 8} (h : specialNumber sysm = true) :
    specialContent s sysm.toNat = some (s.readSpecial sysm) := by
  rcases mem_specialNumbers h with rfl | rfl | rfl | rfl | rfl | rfl | rfl | rfl | rfl | rfl | rfl
  case inr.inr.inr.inr.inr.inr.inr.inr.inr.inl =>
    simp [specialContent, State.readSpecial, bitAt]
  case inr.inr.inr.inr.inr.inr.inr.inr.inr.inr =>
    simp [specialContent, State.readSpecial, bitAt, and_comm]
  all_goals simp [specialContent, State.readSpecial, toWord_eq_flagsWord]

theorem writeSpecial_written (s : State) (v : Word) {sysm : BitVec 8} (h : specialNumber sysm = true) :
    specialWritten s v sysm.toNat = some (s.writeSpecial sysm v) := by
  rcases mem_specialNumbers h with rfl | rfl | rfl | rfl | rfl | rfl | rfl | rfl | rfl | rfl | rfl
  all_goals rfl

/-- A special register's write moves no `pc`. -/
theorem writeSpecial_pc (s : State) (sysm : BitVec 8) (v : Word) : (s.writeSpecial sysm v).pc = s.pc := by
  unfold State.writeSpecial
  split_ifs <;> rfl

/-- Settles O46: `readSpecial_content` and `specialContent_reserved`. -/
theorem specialRegisterReads : Obligations.SpecialRegisterReads := by
  intro s rd sysm
  refine ⟨fun h => if_pos h, fun h13 h15 => (if_neg (not_or.mpr ⟨h13, h15⟩)).trans ?_⟩
  split_ifs with hn
  · rw [readSpecial_content s hn]
    exact congrArg _ (setReg_advance s _ 4 h15)
  · rw [specialContent_reserved s (mt (specialNumber_iff sysm).mpr hn)]

/-- Settles O47: `writeSpecial_written` and `specialWritten_reserved`. -/
theorem specialRegisterWrites : Obligations.SpecialRegisterWrites := by
  intro s rn sysm
  refine ⟨fun h => if_pos h, fun h13 h15 => (if_neg (not_or.mpr ⟨h13, h15⟩)).trans ?_⟩
  split_ifs with hn
  · rw [writeSpecial_written s _ hn]
    simp only [State.advance, writeSpecial_pc]
  · rw [specialWritten_reserved s _ (mt (specialNumber_iff sysm).mpr hn)]

end Sys2Proof.Claims

/-! PROOFS. The system control space (R305, R308, R314, R322): priorities and the exception that is taken, waits,
SysTick, and what the registers read and do when written. -/

namespace Sys2Proof.Claims
open Sys2Proof.Machine

/-! ### Priorities (R305, R308) -/

theorem exceptionPriority_irq (scs : Scs) (k : Fin 32) :
    exceptionPriority scs (16 + k.val) = 64 * (scs.irqPriority[k.val]).toNat := by
  have hk : (scs.irqPriority[16 + k.val - 16]?).getD 0 = scs.irqPriority[k.val] := by simp
  unfold exceptionPriority
  rw [hk]
  simp (disch := omega) only [if_neg, if_pos]

/-- Every priority lies between NMI's or Reset's and that of a reserved number; a configurable one is three at most. -/
theorem exceptionPriority_bounds (scs : Scs) (n : Nat) :
    exceptionPriority scs n ≤ 256 ∧ (n ≠ 1 → n ≠ 2 → n ≠ 3 → 0 ≤ exceptionPriority scs n) ∧
      (n ∈ [1, 2, 3, 11, 14, 15] ∨ 16 ≤ n → exceptionPriority scs n < 256) := by
  have hlt : ∀ p : BitVec 2, (64 * p.toNat : Int) < 256 := fun p => by omega
  unfold exceptionPriority
  split_ifs with h1 h2 h3 h11 h14 h15 h16
  case pos | pos | pos => simp [*]
  case pos | pos | pos | pos => exact ⟨(hlt _).le, fun _ _ _ => by omega, fun _ => hlt _⟩
  case neg =>
    refine ⟨le_rfl, fun _ _ _ => by decide, fun h => absurd h ?_⟩
    simp only [List.mem_cons, List.not_mem_nil, or_false]
    omega

theorem foldl_min_le (l : List Int) (x : Int) : l.foldl min x ≤ x ∧ ∀ y ∈ l, l.foldl min x ≤ y := by
  induction l generalizing x with
  | nil => simp
  | cons z l ih =>
    obtain ⟨hx, hl⟩ := ih (min x z)
    refine ⟨hx.trans (min_le_left x z), fun y hy => ?_⟩
    rcases List.mem_cons.mp hy with rfl | hy
    · exact hx.trans (min_le_right x y)
    · exact hl y hy

theorem foldl_min_eq_or_mem (l : List Int) (x : Int) : l.foldl min x = x ∨ l.foldl min x ∈ l := by
  induction l generalizing x with
  | nil => exact .inl rfl
  | cons z l ih =>
    rcases ih (min x z) with h | h
    · rw [List.foldl_cons, h]
      rcases min_choice x z with hm | hm
      · exact .inl hm
      · exact .inr (by rw [hm]; exact List.mem_cons_self)
    · exact .inr (List.mem_cons_of_mem z h)

theorem execPriority_le_active {s : State} {e : Nat} (he : e ∈ s.active) :
    s.execPriority ≤ exceptionPriority s.scs e :=
  (foldl_min_le _ _).2 _ (List.mem_map_of_mem he)

theorem execPriority_le_mask {s : State} (h : s.pm = true) : s.execPriority ≤ 0 := by
  have hle : s.execPriority ≤ if s.pm then 0 else 256 := (foldl_min_le _ _).1
  rwa [h, if_pos rfl] at hle

theorem execPriority_idle {s : State} (ha : s.active = []) (hp : s.pm = false) : s.execPriority = 256 := by
  rw [State.execPriority, ha, hp]
  rfl

/-- The execution priority is that of an active handler, of the mask, or the lowest (R308). -/
theorem execPriority_cases (s : State) :
    (∃ e ∈ s.active, s.execPriority = exceptionPriority s.scs e) ∨ (s.pm = true ∧ s.execPriority = 0) ∨
      (s.active = [] ∧ s.pm = false) := by
  have hfold : s.execPriority = (if s.pm then 0 else 256) ∨
      s.execPriority ∈ s.active.map (exceptionPriority s.scs) := foldl_min_eq_or_mem _ _
  rcases hfold with h | h
  · cases hp : s.pm with
    | true => exact .inr (.inl ⟨rfl, by rwa [hp, if_pos rfl] at h⟩)
    | false =>
      cases ha : s.active with
      | nil => exact .inr (.inr ⟨rfl, rfl⟩)
      | cons e es =>
        have he : e ∈ s.active := by rw [ha]; exact List.mem_cons_self
        have h256 : s.execPriority = 256 := by rwa [hp, if_neg Bool.false_ne_true] at h
        refine .inl ⟨e, List.mem_cons_self, le_antisymm (execPriority_le_active he) ?_⟩
        rw [h256]
        exact (exceptionPriority_bounds s.scs e).1
  · obtain ⟨e, he, hprio⟩ := List.mem_map.mp h
    exact .inl ⟨e, he, hprio.symm⟩

/-! ### The exception that is taken (R305, R308) -/

theorem mem_pendingIrqs (x : BitVec 32) (n : Nat) :
    n ∈ (if x = 0 then [] else ((List.range 32).filter fun k => x.getLsbD k).map (· + 16)) ↔
      16 ≤ n ∧ n < 48 ∧ x.getLsbD (n - 16) = true := by
  split
  case isTrue h => simp [h]
  case isFalse =>
    simp only [List.mem_map, List.mem_filter, List.mem_range]
    constructor
    · rintro ⟨k, ⟨hk, hbit⟩, rfl⟩
      exact ⟨by omega, by omega, by rwa [Nat.add_sub_cancel]⟩
    · rintro ⟨h16, h48, hbit⟩
      exact ⟨n - 16, ⟨by omega, hbit⟩, by omega⟩

theorem mem_ite_singleton (b : Bool) (k n : Nat) : n ∈ (if b then [k] else []) ↔ n = k ∧ b = true := by
  cases b <;> simp

theorem mem_pendingExceptions (s : State) (n : Nat) :
    n ∈ s.pendingExceptions ↔
      (n = 2 ∧ s.scs.nmiPending = true) ∨ (n = 14 ∧ s.scs.pendSvPending = true) ∨
      (n = 15 ∧ s.scs.sysTickPending = true) ∨
      (16 ≤ n ∧ n < 48 ∧ s.scs.irqPending.getLsbD (n - 16) = true ∧ s.scs.irqEnable.getLsbD (n - 16) = true) := by
  have hirqs := mem_pendingIrqs (s.scs.irqPending &&& s.scs.irqEnable) n
  rw [BitVec.getLsbD_and, Bool.and_eq_true] at hirqs
  simp only [State.pendingExceptions, List.mem_append, mem_ite_singleton, or_assoc]
  rw [hirqs]

theorem pairwise_pendingIrqs (x : BitVec 32) :
    (if x = 0 then [] else ((List.range 32).filter fun k => x.getLsbD k).map (· + 16)).Pairwise (· < ·) := by
  split
  · exact .nil
  · exact (List.pairwise_lt_range.filter _).map _ fun _ _ h => Nat.add_lt_add_right h 16

theorem pairwise_ite_singleton (b : Bool) (k : Nat) : (if b then [k] else []).Pairwise (· < ·) := by
  cases b <;> simp

/-- The pending exceptions stand in the order of their numbers. -/
theorem pairwise_pendingExceptions (s : State) : s.pendingExceptions.Pairwise (· < ·) := by
  simp only [State.pendingExceptions, List.pairwise_append, List.mem_append, mem_ite_singleton, mem_pendingIrqs,
    pairwise_ite_singleton, pairwise_pendingIrqs, true_and]
  refine ⟨⟨?_, ?_⟩, ?_⟩
  all_goals omega

theorem highestPriority_eq_none {scs : Scs} {l : List Nat} (h : highestPriority scs l = none) : l = [] := by
  cases l with
  | nil => rfl
  | cons n ns =>
    simp only [highestPriority] at h
    split at h
    · cases h
    · split at h <;> cases h

/-- The exception chosen is of the list, none has a higher priority, and among equals it is the first. -/
theorem highestPriority_eq_some {scs : Scs} {l : List Nat} {n : Nat} (hl : l.Pairwise (· < ·))
    (h : highestPriority scs l = some n) :
    n ∈ l ∧ ∀ m ∈ l, exceptionPriority scs n ≤ exceptionPriority scs m ∧
      (exceptionPriority scs n = exceptionPriority scs m → n ≤ m) := by
  induction l generalizing n with
  | nil => cases h
  | cons k ks ih =>
    obtain ⟨hk, hks⟩ := List.pairwise_cons.mp hl
    simp only [highestPriority] at h
    split at h
    · next hnone =>
      obtain rfl : ks = [] := highestPriority_eq_none hnone
      cases h
      simp
    · next m hm =>
      obtain ⟨hmem, hmin⟩ := ih hks hm
      split at h
      · next hle =>
        cases h
        refine ⟨List.mem_cons_self, fun j hj => ?_⟩
        rcases List.mem_cons.mp hj with rfl | hj
        · exact ⟨le_rfl, fun _ => le_rfl⟩
        · exact ⟨hle.trans (hmin j hj).1, fun _ => (hk j hj).le⟩
      · next hlt =>
        cases h
        refine ⟨List.mem_cons_of_mem k hmem, fun j hj => ?_⟩
        rcases List.mem_cons.mp hj with rfl | hj
        · exact ⟨by omega, fun heq => by omega⟩
        · exact hmin j hj

theorem exceptionToTake_eq_some {s : State} {n : Nat} (h : s.exceptionToTake = some n) :
    n ∈ s.pendingExceptions ∧ exceptionPriority s.scs n < s.execPriority ∧
      ∀ m ∈ s.pendingExceptions, exceptionPriority s.scs n ≤ exceptionPriority s.scs m ∧
        (exceptionPriority s.scs n = exceptionPriority s.scs m → n ≤ m) := by
  unfold State.exceptionToTake at h
  split at h
  · next m hm =>
    split at h
    · next hlt =>
      cases h
      obtain ⟨hmem, hmin⟩ := highestPriority_eq_some (pairwise_pendingExceptions s) hm
      exact ⟨hmem, hlt, hmin⟩
    · cases h
  · cases h

theorem exceptionToTake_eq_none {s : State} (h : s.exceptionToTake = none) :
    ∀ m ∈ s.pendingExceptions, s.execPriority ≤ exceptionPriority s.scs m := by
  intro m hm
  unfold State.exceptionToTake at h
  split at h
  · next n hn =>
    obtain ⟨-, hmin⟩ := highestPriority_eq_some (pairwise_pendingExceptions s) hn
    split at h
    · cases h
    · next hge => exact (not_lt.mp hge).trans (hmin m hm).1
  · next hnone =>
    rw [highestPriority_eq_none hnone] at hm
    cases hm

/-- One is taken exactly when a pending one has a higher priority than the execution. -/
theorem exceptionToTake_isSome_iff (s : State) :
    s.exceptionToTake.isSome = true ↔ ∃ n ∈ s.pendingExceptions, exceptionPriority s.scs n < s.execPriority := by
  cases h : s.exceptionToTake with
  | none =>
    have hnone := exceptionToTake_eq_none h
    exact iff_of_false Bool.false_ne_true fun ⟨n, hn, hlt⟩ => absurd (hnone n hn) (not_le.mpr hlt)
  | some n =>
    obtain ⟨hmem, hlt, -⟩ := exceptionToTake_eq_some h
    exact iff_of_true rfl ⟨n, hmem, hlt⟩

/-- Settles O55: the choice by `exceptionToTake_eq_some` and `exceptionToTake_eq_none`, the execution priority by
`execPriority_cases`. -/
theorem highestPriorityPendingExceptionIsTaken : Obligations.HighestPriorityPendingExceptionIsTaken := by
  intro s
  refine ⟨mem_pendingExceptions s, fun n => exceptionToTake_eq_some, exceptionToTake_eq_none,
    ⟨rfl, rfl, rfl, rfl, rfl, rfl, exceptionPriority_irq s.scs⟩, fun e => execPriority_le_active,
    execPriority_le_mask, execPriority_cases s, fun ha hp n hn => ?_⟩
  rw [execPriority_idle ha hp]
  exact (exceptionPriority_bounds s.scs n).2.2 (hn.imp_right And.left)

/-- With the mask set only NMI can be taken: every other pending exception has a configurable priority (R302). -/
theorem exceptionToTake_masked {s : State} {n : Nat} (hp : s.pm = true) (h : s.exceptionToTake = some n) : n = 2 := by
  obtain ⟨hmem, hlt, -⟩ := exceptionToTake_eq_some h
  have hmask := execPriority_le_mask hp
  by_contra h2
  rw [mem_pendingExceptions] at hmem
  have hpos := (exceptionPriority_bounds s.scs n).2.1 (by omega) h2 (by omega)
  omega

/-! ### What a step does after the boundary -/

theorem step_reset {s : State} (hr : s.boundary.scs.resetRequest = true) :
    step s = .next (resetSequence s.boundary) := by
  rw [step, State.afterBoundary, if_pos hr]

section Step

variable {s : State} (hr : s.boundary.scs.resetRequest = false)

include hr

theorem step_lockup (hl : s.boundary.lockup = true) :
    step s = if s.boundary.cfg.trapModel = .armv6m ∧ s.boundary.scs.nmiPending ∧ -2 < s.boundary.execPriority then
      .next (takeException 2 s.boundary.pc s.boundary) else .next s.boundary := by
  rw [step, State.afterBoundary, hr, if_neg Bool.false_ne_true, if_pos hl]

variable (hl : s.boundary.lockup = false)

include hl

theorem step_waiting {w : Wait} (hw : s.boundary.waiting = some w) : step s = .next (s.boundary.tryWait w) := by
  simp [step, State.afterBoundary, hr, hl, hw]

variable (hw : s.boundary.waiting = none)

include hw

theorem step_takes {n : Nat} (hm : s.boundary.cfg.trapModel = .armv6m) (hn : s.boundary.exceptionToTake = some n) :
    step s = .next (takeException n s.boundary.pc s.boundary) := by
  simp [step, State.afterBoundary, hr, hl, hw, hm, hn]

/-- R332: an instruction that would begin with `T` = 0. -/
theorem step_thumbClear (hT : s.boundary.epsrT = false)
    (hn : s.boundary.cfg.trapModel = .armv6m → s.boundary.exceptionToTake = none) :
    step s = raiseThumbClear s.boundary := by
  have hnone : (if s.boundary.cfg.trapModel = .armv6m then s.boundary.exceptionToTake else none) = none := by
    split
    · next hm => exact hn hm
    · rfl
  simp [step, State.afterBoundary, State.runInstr, hr, hl, hw, hnone, hT]

end Step

/-- Settles O56: `step_takes`, `takeException_entered` and `exceptionToTake_masked`. -/
theorem pendingExceptionsAreTakenBetweenInstructions : Obligations.PendingExceptionsAreTakenBetweenInstructions := by
  intro s n hm hr hl hw hn
  have hstep := step_takes hr hl hw hm hn
  exact ⟨hstep, fun hentry => ⟨_, hstep, takeException_entered _ hentry⟩, fun hp => exceptionToTake_masked hp hn⟩

/-! ### Waits (R41, R253, R275, R301) -/

theorem tryWait_goesOn {s : State} {w : Wait}
    (h : s.wakeUp = true ∨ s.interruptWakes = true ∨ (w = .wfe ∧ s.eventReg = true)) :
    s.tryWait w = { s with waiting := none, pc := s.pc + 2 } := by
  rw [State.tryWait, if_pos]
  simpa [or_assoc] using h

theorem tryWait_holds {s : State} {w : Wait} (hwake : s.wakeUp = false) (hirq : s.interruptWakes = false)
    (hevent : w = .wfe → s.eventReg = false) : s.tryWait w = { s with waiting := some w } := by
  rw [State.tryWait, if_neg]
  simpa [hwake, hirq] using hevent

/-- `WFE` with no event waits. -/
theorem execWfe_waits {s : State} (h : s.eventReg = false) : execWfe s = .next (s.tryWait .wfe) :=
  if_neg (by simp [h])

/-- Settles O45: `tryWait_goesOn` and `tryWait_holds`, in an instruction and in a held step. -/
theorem waitsHoldUntilWoken : Obligations.WaitsHoldUntilWoken := by
  intro s w
  refine ⟨fun h => ?wakes, fun hwake hirq => ?holds, fun h => if_pos h, ?held, exceptionToTake_isSome_iff _⟩
  case wakes =>
    have hgoes : ∀ w, s.tryWait w = { s with waiting := none, pc := s.pc + 2 } := fun w =>
      tryWait_goesOn (h.imp_right .inl)
    exact ⟨congrArg _ (hgoes .wfi), fun he => (execWfe_waits he).trans (congrArg _ (hgoes .wfe))⟩
  case holds =>
    exact ⟨congrArg _ (tryWait_holds (w := .wfi) hwake hirq nofun),
      fun he => (execWfe_waits he).trans (congrArg _ (tryWait_holds hwake hirq fun _ => he))⟩
  case held =>
    intro b hr hl hw
    have hstep : step s = .next (b.tryWait w) := step_waiting hr hl hw
    refine ⟨fun h => by rw [hstep, tryWait_goesOn h], fun hwake hirq hevent => ?_⟩
    rw [hstep, tryWait_holds hwake hirq hevent, ← hw]

/-! ### SysTick (R322) -/

/-- Settles O59: the counter by induction on the clocks, what they make pending by `State.sysTickRun_cases`. -/
theorem sysTickCountsDownAndReloads : Obligations.SysTickCountsDownAndReloads := by
  refine ⟨fun t n hn => ?counts, fun t ht => ?reloads, fun s => sysTickRun_disabled, fun s hon => ?runs⟩
  case counts =>
    induction n generalizing t with
    | zero => exact ⟨rfl, iff_of_false Bool.false_ne_true (by omega)⟩
    | succ n ih =>
      have h0 : t.current ≠ 0 := by bv_omega
      by_cases h1 : t.current = 1
      · have hone : t.current.toNat = 1 := by rw [h1]; rfl
        obtain rfl : n = 0 := by omega
        simp [SysTick.clocks, SysTick.clock, h1]
      · have hclock : t.clock = ({ t with current := t.current - 1 }, false) := by
          rw [SysTick.clock, if_neg h0, if_neg h1]
        have hsub : (t.current - 1).toNat = t.current.toNat - 1 := by bv_omega
        have hne : t.current.toNat ≠ 1 := fun h => h1 (BitVec.eq_of_toNat_eq h)
        obtain ⟨hcount, hzero⟩ := ih { t with current := t.current - 1 } (by rw [hsub]; omega)
        rw [SysTick.clocks, hclock]
        simp only [Bool.false_or]
        rw [hcount, hzero, hsub]
        omega
  case reloads =>
    rw [SysTick.clock, if_pos ht]
    exact ⟨rfl, rfl⟩
  case runs =>
    obtain ⟨-, -, -, -, hticks, -⟩ := sysTickRun_ticked s
    exact hticks hon

/-! ### Writes to registers (R314, R322) -/

/-- Bits cleared by ones. -/
theorem getLsbD_and_not {w : Nat} (x y : BitVec w) (k : Nat) :
    (x &&& ~~~y).getLsbD k = (x.getLsbD k && !y.getLsbD k) := by
  rw [BitVec.getLsbD_and, BitVec.getLsbD_not]
  by_cases hk : k < w
  · rw [decide_eq_true hk, Bool.true_and]
  · rw [BitVec.getLsbD_of_ge x k (by omega), Bool.false_and, Bool.false_and]

/-- External interrupts that become pending are an event with `SEVONPEND` exactly where one is new (R301). -/
theorem pendIrqs_event (s : State) (mask : BitVec 32) :
    (s.pendIrqs mask).eventReg = true ↔ s.eventReg = true ∨ s.scs.sevOnPend = true ∧
      ∃ k, (s.scs.irqPending ||| mask).getLsbD k = true ∧ s.scs.irqPending.getLsbD k = false := by
  refine (State.withPending_event s { s.scs with irqPending := s.scs.irqPending ||| mask } rfl).trans ?_
  refine or_congr_right (and_congr_right fun _ => ⟨?_, ?_⟩)
  · rintro (⟨k, -, hnew, hold⟩ | ⟨hnew, hold⟩ | ⟨hnew, hold⟩)
    · exact ⟨k, hnew, hold⟩
    · rw [hold] at hnew; cases hnew
    · rw [hold] at hnew; cases hnew
  · rintro ⟨k, hnew, hold⟩
    exact .inl ⟨k, BitVec.lt_of_getLsbD hnew, hnew, hold⟩

theorem append_and_not {n m : Nat} (a c : BitVec n) (b d : BitVec m) :
    (a ++ b) &&& ~~~(c ++ d) = (a &&& ~~~c) ++ (b &&& ~~~d) := by
  apply BitVec.eq_of_getLsbD_eq
  intro i _
  simp only [getLsbD_and_not, BitVec.getLsbD_append]
  split <;> rfl

/-- With the same interrupts pending, what is new is NMI, PendSV or SysTick. -/
theorem pendingBits_system {c d : Scs} (h : d.irqPending = c.irqPending) :
    (d.pendingBits &&& ~~~c.pendingBits != 0) = true ↔
      (d.nmiPending && !c.nmiPending) = true ∨ (d.pendSvPending && !c.pendSvPending) = true ∨
        (d.sysTickPending && !c.sysTickPending) = true := by
  have hbits : d.pendingBits &&& ~~~c.pendingBits =
      0#32 ++ BitVec.ofBool (d.nmiPending && !c.nmiPending) ++ BitVec.ofBool (d.pendSvPending && !c.pendSvPending) ++
        BitVec.ofBool (d.sysTickPending && !c.sysTickPending) := by
    have hbit : ∀ x y : Bool, BitVec.ofBool x &&& ~~~BitVec.ofBool y = BitVec.ofBool (x && !y) := by decide
    have hself : ∀ x : BitVec 32, x &&& ~~~x = 0#32 := fun x => by ext i; simp
    rw [Scs.pendingBits, Scs.pendingBits, h]
    exact (append_and_not _ _ _ _).trans (by rw [append_and_not, append_and_not, hself, hbit, hbit, hbit])
  rw [hbits]
  generalize (d.nmiPending && !c.nmiPending) = x
  generalize (d.pendSvPending && !c.pendSvPending) = y
  generalize (d.sysTickPending && !c.sysTickPending) = z
  revert x y z
  decide

theorem or_and_not_iff_ne (x y : Bool) : ((x || y) && !x) = true ↔ (x || y) ≠ x := by
  cases x <;> cases y <;> decide

/-- NMI, PendSV and SysTick that become pending are an event with `SEVONPEND` exactly where one is new (R301). -/
theorem pendSystem_event (s : State) (a b c : Bool) :
    (s.pendSystem a b c).eventReg = true ↔ s.eventReg = true ∨ s.scs.sevOnPend = true ∧
      ((s.scs.nmiPending || a) ≠ s.scs.nmiPending ∨ (s.scs.pendSvPending || b) ≠ s.scs.pendSvPending ∨
        (s.scs.sysTickPending || c) ≠ s.scs.sysTickPending) := by
  have hnew := pendingBits_system (c := s.scs) (d := (s.pendSystem a b c).scs) rfl
  simp only [State.pendSystem_scs, or_and_not_iff_ne] at hnew
  rw [State.pendSystem, State.withPending_eventReg, Bool.or_eq_true, Bool.and_eq_true, hnew]

/-- The eight priority registers stand one after the other. -/
theorem writeSystem_priority (s : State) (v : Word) {k : Nat} (hk : k < 8) :
    s.writeSystem (0xE000E400 + BitVec.ofNat 32 (k * 4)) v =
      some { s with scs := { s.scs with irqPriority := setPriorityWord s.scs.irqPriority k v } } := by
  interval_cases k
  all_goals rfl

theorem readSystem_priority (s : State) {k : Nat} (hk : k < 8) :
    s.readSystem (0xE000E400 + BitVec.ofNat 32 (k * 4)) = some (priorityWord s.scs.irqPriority k, s) := by
  interval_cases k
  all_goals rfl

theorem setPriorityWord_other (p : Vector (BitVec 2) 32) (k : Nat) (v : Word) {i : Nat} (hi : i < 32)
    (hik : i / 4 ≠ k) :
    (setPriorityWord p k v)[i] = p[i] := by
  simp only [setPriorityWord, Vector.getElem_setIfInBounds]
  rw [if_neg (by omega), if_neg (by omega), if_neg (by omega), if_neg (by omega)]

/-- Interrupt `4·k + j` has byte `j` of register `k`. -/
theorem setPriorityWord_same (p : Vector (BitVec 2) 32) (k : Nat) (v : Word) {j : Nat} (hj : j < 4)
    (hi : 4 * k + j < 32) : (setPriorityWord p k v)[4 * k + j].toNat = v.toNat / 2 ^ (8 * j + 6) % 4 := by
  simp only [setPriorityWord, Vector.getElem_setIfInBounds]
  interval_cases j
  all_goals simp [Nat.shiftRight_eq_div_pow]

/-- A key that matches, as a number. -/
theorem airKey_iff (v : Word) : v.extractLsb' 16 16 = 0x05FA#16 ↔ (v.toNat / 2 ^ 16 == 0x05FA) = true := by
  have hv := v.isLt
  rw [extract_eq_iff, beq_iff_eq, Nat.mod_eq_of_lt (by omega)]
  rfl

theorem extract_eq_ofNat (v : Word) (i l : Nat) : v.extractLsb' i l = BitVec.ofNat l (v.toNat / 2 ^ i) := by
  apply BitVec.eq_of_toNat_eq
  rw [BitVec.extractLsb'_toNat, BitVec.toNat_ofNat, Nat.shiftRight_eq_div_pow]

/-- Settles O60: each register's write is its row of `State.writeSystem`. -/
theorem systemRegisterWritesTakeEffect : Obligations.SystemRegisterWritesTakeEffect := by
  intro s v irq
  refine ⟨⟨_, rfl, fun k => BitVec.getLsbD_or⟩, ⟨_, rfl, getLsbD_and_not _ v⟩,
    ⟨_, _, rfl, fun k => BitVec.getLsbD_or, pendIrqs_event s v⟩, ⟨_, rfl, getLsbD_and_not _ v⟩,
    ⟨_, writeSystem_priority s v (by omega), ?priority, fun k hk => setPriorityWord_other _ _ v k.isLt hk⟩,
    ⟨_, _, _, _, rfl, rfl, rfl, rfl, pendSystem_event s _ _ _⟩, ?aircr, rfl, ?shpr2, ?shpr3, rfl, ?load, rfl, rfl, rfl,
    rfl⟩
  case priority =>
    have h := setPriorityWord_same s.scs.irqPriority (irq.val / 4) v (j := irq.val % 4) (by omega) (by omega)
    simpa only [Nat.div_add_mod] using h
  case aircr =>
    change (if v.extractLsb' 16 16 = 0x05FA#16 then _ else _) = _
    split
    · next hkey => rw [airKey_iff] at hkey; rw [hkey, Bool.true_and]
    · next hkey => rw [airKey_iff, Bool.not_eq_true] at hkey; rw [hkey, Bool.false_and, Bool.or_false]
  case shpr2 =>
    rw [← extract_eq_ofNat]
    rfl
  case shpr3 =>
    rw [← extract_eq_ofNat, ← extract_eq_ofNat]
    rfl
  case load =>
    rw [BitVec.ofNat_toNat]
    rfl

/-! ### Reads of registers (R314, R322) -/

theorem priorityWord_byte (p : Vector (BitVec 2) 32) (k : Nat) {j : Nat} (hj : j < 4) (hi : 4 * k + j < 32) :
    (priorityWord p k).toNat / 2 ^ (8 * j + 6) % 4 = p[4 * k + j].toNat := by
  have hget : p[4 * k + j].toNat = ((p[4 * k + j]?).getD 0).toNat := by
    rw [Vector.getElem?_eq_getElem hi, Option.getD_some]
  rw [hget]
  simp only [priorityWord, append_toNat, BitVec.toNat_ofNat]
  have h3 := ((p[4 * k + 3]?).getD 0).isLt
  have h2 := ((p[4 * k + 2]?).getD 0).isLt
  have h1 := ((p[4 * k + 1]?).getD 0).isLt
  have h0 := ((p[4 * k]?).getD 0).isLt
  obtain rfl | hpos := Nat.eq_zero_or_pos j
  · simp only [Nat.add_zero, Nat.mul_zero, Nat.zero_add]
    omega
  · interval_cases j
    all_goals omega

/-- The content of every register. -/
theorem systemReads (s : State) (irq : Fin 32) : SystemReads s irq := by
  refine ⟨rfl, rfl, rfl, rfl, ?reload, ?current, rfl, rfl, rfl, ⟨_, _, rfl, ?en, ?ti, ?clk, ?cf, rfl⟩,
    ⟨_, _, rfl, ?nmi, ?psv, ?pst, rfl⟩, ⟨_, _, rfl, rfl⟩, ⟨_, rfl, ?soe, ?sd, ?sop⟩, ⟨_, rfl, ?svc⟩,
    ⟨_, rfl, ?tick, ?pendSv⟩, ⟨_, readSystem_priority s (by omega), ?irq⟩⟩
  case reload | current =>
    rw [BitVec.ofNat_toNat]
    rfl
  case en | ti | clk | cf | soe | sd | sop =>
    simp only [BitVec.getLsbD_or, bitAt_getLsbD]
    simp
  case nmi | psv | pst =>
    simp only [BitVec.getLsbD_or, BitVec.getLsbD_and, bitAt_getLsbD]
    simp
  case svc =>
    rw [append_toNat, BitVec.toNat_ofNat]
    omega
  case tick | pendSv =>
    simp only [append_toNat, BitVec.toNat_ofNat]
    omega
  case irq =>
    have h := priorityWord_byte s.scs.irqPriority (irq.val / 4) (j := irq.val % 4) (by omega) (by omega)
    simpa only [Nat.div_add_mod] using h

end Sys2Proof.Claims

/-! PROOFS. The canonical form of memory (R43, R50), the accesses that trap or reach a device or a system register
(R54 to R60, R67, R322), and reset (R332). -/

namespace Sys2Proof.Claims
open Sys2Proof.Machine

/-! ### The canonical form (R43, R50) -/

/-- The first address listed is the first that reads as something else than an unlisted one. -/
theorem wfFrom_head_le {lo k : Nat} {b : Byte} {m n : Memory} (hm : Memory.wfFrom lo ((k, b) :: m) = true)
    (hn : Memory.wfFrom lo n = true) (h : ∀ a, Memory.read ((k, b) :: m) a = n.read a) :
    ∃ j c n', n = (j, c) :: n' ∧ j ≤ k := by
  obtain ⟨-, -, hb, -⟩ := Memory.wfFrom_cons.mp hm
  have hread : n.read k = b := by rw [← h k, Memory.read_cons, if_pos rfl]
  cases n with
  | nil => exact absurd hread.symm hb
  | cons e n =>
    obtain ⟨j, c⟩ := e
    refine ⟨j, c, n, rfl, Nat.le_of_not_lt fun hlt => hb ?_⟩
    obtain ⟨-, hj, hc, hrest⟩ := Memory.wfFrom_cons.mp hn
    rw [← hread]
    exact Memory.read_of_wfFrom (lo := j) (Memory.wfFrom_cons.mpr ⟨le_rfl, hj, hc, hrest⟩) hlt

/-- Two lists of the form with the same content are one. -/
theorem wfFrom_ext {lo : Nat} {m n : Memory} (hm : Memory.wfFrom lo m = true) (hn : Memory.wfFrom lo n = true)
    (h : ∀ a, m.read a = n.read a) : m = n := by
  induction m generalizing lo n with
  | nil =>
    cases n with
    | nil => rfl
    | cons e n =>
      obtain ⟨_, _, _, hnil, -⟩ := wfFrom_head_le hn hm fun a => (h a).symm
      cases hnil
  | cons e m ih =>
    obtain ⟨k, b⟩ := e
    obtain ⟨j, c, n', rfl, hjk⟩ := wfFrom_head_le hm hn h
    obtain ⟨_, _, _, ⟨⟩, hkj⟩ := wfFrom_head_le hn hm fun a => (h a).symm
    obtain rfl : j = k := le_antisymm hjk hkj
    obtain ⟨-, -, -, hm'⟩ := Memory.wfFrom_cons.mp hm
    obtain ⟨-, -, -, hn'⟩ := Memory.wfFrom_cons.mp hn
    have hbc := h j
    rw [Memory.read_cons, Memory.read_cons, if_pos rfl, if_pos rfl] at hbc
    rw [hbc, ih hm' hn' fun a => ?_]
    by_cases ha : j = a
    · subst ha
      rw [Memory.read_of_wfFrom hm' (Nat.lt_succ_self j), Memory.read_of_wfFrom hn' (Nat.lt_succ_self j)]
    · have hother := h a
      rwa [Memory.read_cons, Memory.read_cons, if_neg ha, if_neg ha] at hother

/-- Settles O11: `Memory.wf_write`, `Memory.read_write_same` and `wfFrom_ext`. -/
theorem memoryHasOneFormForEachContent : Obligations.MemoryHasOneFormForEachContent :=
  ⟨fun m a b hm ha => ⟨Memory.wf_write hm ha, Memory.read_write_same m a b⟩, fun _ _ => wfFrom_ext⟩

/-! ### Instructions with one access -/

/-- An instruction with one access is `loadTo` or `storeFrom` of it. -/
theorem exec_of_accessOf {s : State} {i : Instr} {kind : AccessKind} {addr : Word} {size : Size}
    (h : accessOf s i = some (kind, addr, size)) :
    (kind = .read ∧ exec i s = loadTo (dataRegister i) size (extended i) addr s) ∨
    (kind = .write ∧ exec i s = storeFrom (dataRegister i) size addr s) := by
  cases i
  case ldrbImm | ldrhImm | ldrImm | ldrPc | ldrbReg | ldrsbReg | ldrhReg | ldrshReg | ldrReg | ldrSp =>
    cases h
    exact .inl ⟨rfl, rfl⟩
  case strbImm | strhImm | strImm | strbReg | strhReg | strReg | strSp =>
    cases h
    exact .inr ⟨rfl, rfl⟩
  all_goals cases h

theorem exec_load {s : State} {i : Instr} {addr : Word} {size : Size} (h : accessOf s i = some (.read, addr, size)) :
    exec i s = loadTo (dataRegister i) size (extended i) addr s := by
  rcases exec_of_accessOf h with ⟨-, h⟩ | ⟨h, -⟩
  · exact h
  · cases h

theorem exec_store {s : State} {i : Instr} {addr : Word} {size : Size} (h : accessOf s i = some (.write, addr, size)) :
    exec i s = storeFrom (dataRegister i) size addr s := by
  rcases exec_of_accessOf h with ⟨h, -⟩ | ⟨-, h⟩
  · cases h
  · exact h

/-- An access that traps makes its instruction trap before anything is done. -/
theorem exec_access_trap {s : State} {i : Instr} {kind : AccessKind} {addr : Word} {size : Size} {x : Trap}
    (h : accessOf s i = some (kind, addr, size)) (hread : memRead kind addr size s = .trap x s)
    (hwrite : kind = .write → ∀ v, memWrite addr size v s = .trap x s) : exec i s = raise x s := by
  rcases exec_of_accessOf h with ⟨rfl, hexec⟩ | ⟨rfl, hexec⟩
  · rw [hexec, loadTo, hread]
    rfl
  · rw [hexec, storeFrom, hwrite rfl]
    rfl

theorem memRead_unadmitted {kind : AccessKind} {a : Word} {z : Size} {s : State} (ha : aligned a z = true)
    (hc : s.accessClass kind a z = none) : memRead kind a z s = .trap (.busFault a kind) s := by
  rw [memRead, if_pos ha, hc]

theorem memWrite_unadmitted {a : Word} {z : Size} {s : State} (v : Word) (ha : aligned a z = true)
    (hc : s.accessClass .write a z = none) : memWrite a z v s = .trap (.busFault a .write) s := by
  rw [memWrite, if_pos ha, hc]

/-- Settles O31: each of the two traps by `exec_access_trap`. -/
theorem misalignedAndUnadmittedAccessesTrap : Obligations.MisalignedAndUnadmittedAccessesTrap := by
  intro s i kind addr size haccess
  refine ⟨fun hmod => ?misaligned, fun hmod hc => ?unadmitted⟩
  case misaligned =>
    rw [exec_access_trap haccess (memRead_misaligned kind s hmod) fun _ v => memWrite_misaligned v s hmod]
    exact traps_raise rfl
  case unadmitted =>
    have ha := (aligned_iff addr size).mpr hmod
    rw [exec_access_trap haccess (memRead_unadmitted ha hc) ?_]
    · exact traps_raise rfl
    · rintro rfl v
      exact memWrite_unadmitted v ha hc

/-! ### Devices (R60) -/

theorem mask_getLsbD (z : Size) {i : Nat} (hi : i < 32) : z.mask.getLsbD i = decide (i < 8 * z.bytes) := by
  have hall : ∀ z : Size, ∀ i : Fin 32, z.mask.getLsbD i.val = decide (i.val < 8 * z.bytes) := by
    rintro (_ | _ | _)
    all_goals decide
  exact hall z ⟨i, hi⟩

/-- A value read has no bit above its bytes. -/
theorem loadPlainBytes_mask (c : Config) (kind : AccessKind) (m : Memory) (a v : Word) (z : Size) :
    loadPlainBytes c kind m a z.bytes v &&& z.mask = loadPlainBytes c kind m a z.bytes v := by
  apply BitVec.eq_of_getLsbD_eq
  intro i hi
  rw [BitVec.getLsbD_and, mask_getLsbD z hi]
  by_cases hz : i < 8 * z.bytes
  · rw [decide_eq_true hz, Bool.and_true]
  · rw [loadPlainBytes_lt c kind m a v z.bytes i (by omega), Bool.false_and]

theorem memRead_device {kind : AccessKind} {a : Word} {z : Size} {s : State} (ha : aligned a z = true)
    (hc : s.accessClass kind a z = some .device) : memRead kind a z s = s.readDevice kind a z := by
  rw [memRead, if_pos ha, hc]

theorem memWrite_device {a : Word} {z : Size} {s : State} (v : Word) (ha : aligned a z = true)
    (hc : s.accessClass .write a z = some .device) : memWrite a z v s = .ok () (s.writeDevice a z v) := by
  rw [memWrite, if_pos ha, hc]

theorem memRead_system {a v : Word} {s t : State} {kind : AccessKind} (ha : aligned a .word = true)
    (hc : s.accessClass kind a .word = some .system) (h : s.readSystem a = some (v, t)) :
    memRead kind a .word s = .ok v t := by
  simp only [memRead, ha, hc, h, if_true]

theorem memWrite_system {a v : Word} {s t : State} (ha : aligned a .word = true)
    (hc : s.accessClass .write a .word = some .system) (h : s.writeSystem a v = some t) :
    memWrite a .word v s = .ok () (t.markStored a .word) := by
  simp only [memWrite, ha, hc, h, if_true]

/-- A word is not extended. -/
theorem extended_word {s : State} {i : Instr} {kind : AccessKind} {addr : Word}
    (h : accessOf s i = some (kind, addr, .word)) (v : Word) : extended i v = v := by
  cases i
  case ldrsbReg | ldrshReg => cases h
  all_goals rfl

/-- Settles O32: the four outcomes of an access by the kind of its address, and `systemReads`. -/
theorem deviceAndSystemAccesses : Obligations.DeviceAndSystemAccesses := by
  intro s i addr size irq hmod plainByte
  have ha := (aligned_iff addr size).mpr hmod
  have hsize : size.bytes ≤ 2 ^ 32 := (size_bytes_le size).trans (by decide)
  refine ⟨fun haccess hc => ?read, fun haccess hc => ?write, fun t v hw haccess hc hread => ?sysRead,
    fun t hw haccess hc hwrite => ?sysWrite, systemReads s irq⟩
  case read =>
    rw [exec_load haccess, loadTo, memRead_device ha hc]
    refine ⟨_, _, rfl, loadPlainBytes_mask _ _ _ _ _ size, ?_, rfl⟩
    rintro k ⟨hk, hplain⟩
    rw [loadPlainBytes_byte _ _ _ _ _ _ _ (size_bytes_le size) hk, if_pos hplain]
    rfl
  case write =>
    rw [exec_store haccess, storeFrom, memWrite_device _ ha hc]
    refine ⟨_, rfl, ?_, fun a hout => ?_, fun hnone => ?_, marked_of_markBytes rfl, rfl⟩
    · rintro k ⟨hk, hplain⟩
      exact Memory.read_storePlainBytes_same _ _ _ _ _ _ hsize hk hplain
    · exact Memory.read_storePlainBytes_other _ _ _ _ _ _ fun k hk hplain => hout k ⟨hk, hplain⟩
    · exact storePlainBytes_none _ _ _ _ _ fun k hk hplain => hnone k ⟨hk, hplain⟩
  case sysRead =>
    subst hw
    rw [exec_load haccess, loadTo, memRead_system ha hc hread, Access.andThen, extended_word haccess]
    rfl
  case sysWrite =>
    subst hw
    rw [exec_store haccess, storeFrom, memWrite_system ha hc hwrite]
    obtain ⟨c, e, rfl⟩ := State.writeSystem_eq hwrite
    exact ⟨_, rfl, marked_of_markBytes rfl, rfl⟩

/-! ### Reset (R332) -/

/-- A reset whose vector table is plain memory takes the stack pointer and `pc` from it. -/
theorem resetSequence_plain {s : State} (h0 : s.accessClass .read 0 .word = some .plain)
    (h4 : s.accessClass .read 4 .word = some .plain) :
    resetSequence s =
      { s.resetRegisters with
        msp := alignWord (wordAt s 0), pc := clearBit0 (wordAt s 4), epsrT := (wordAt s 4).getLsbD 0 } := by
  have hread : readWords 0 2 s.resetRegisters = .ok [wordAt s 0, wordAt s 4] s.resetRegisters := by
    rw [readWords_plain 0 2 s.resetRegisters (.inl rfl) fun k hk => ?_]
    · have hword : ∀ a, s.resetRegisters.mem.load a 4 = wordAt s a := load_word s
      simp only [hword]
      rfl
    · interval_cases k
      · exact h0
      · exact h4
  rw [resetSequence, hread]

theorem pendingExceptions_reset {s : State} (h : s.scs = Scs.reset) : s.pendingExceptions = [] := by
  rw [State.pendingExceptions, h]
  decide

/-- Settles O8: `step_reset`, then `resetSequence_plain` on a boundary that moves no memory. -/
theorem resetLoadsTheVectorTable : Obligations.ResetLoadsTheVectorTable := by
  intro s hr h0 h4
  have hkeeps : BoundaryKeeps s s.boundary := s.boundary_keeps
  have hmem : s.boundary.mem = s.mem := by rw [hkeeps]
  have hcfg : s.boundary.cfg = s.cfg := by rw [hkeeps]
  have hword : ∀ a, wordAt s.boundary a = wordAt s a := fun a => by
    rw [wordAt, byteAt, byteAt, byteAt, byteAt, hmem]
    rfl
  have hreset := resetSequence_plain ((State.accessClass_cfg hcfg _ _ _).trans h0)
    ((State.accessClass_cfg hcfg _ _ _).trans h4)
  rw [hword, hword] at hreset
  exact ⟨_, (step_reset hr).trans (congrArg _ hreset), rfl, rfl, rfl, rfl, rfl, rfl, rfl, rfl, rfl,
    pendingExceptions_reset rfl, rfl, rfl, rfl, hmem, hcfg⟩

end Sys2Proof.Claims

/-! PROOFS. Transfers of several registers (R210, R211, R240, R241): the registers of a list and their words, `PUSH`,
`POP`, `LDM` and `STM` in plain memory, and where they stop (R56, R58, R293). -/

namespace Sys2Proof.Claims
open Sys2Proof.Machine

/-! ### Traps at an address (R292, R306) -/

theorem becomesHardFault_of_next {o : Host.Outcome State Fault Refusal} {s : State} {ret : Word}
    (h : s.cfg.trapModel = .armv6m → o = .next (hardFault ret s)) : BecomesHardFault o s ret :=
  fun hm hp he => ⟨_, h hm, hardFault_entered ret hp he⟩

theorem raise_terminal {s : State} (x : Trap) (hm : s.cfg.trapModel = .terminal) :
    raise x s = .fault (x.toFault s) := by
  rw [raise, hm]

theorem raise_armv6m {s : State} (x : Trap) (hm : s.cfg.trapModel = .armv6m) : raise x s = .next (takeTrap x s) := by
  rw [raise, hm]

/-- A trap whose HardFault returns to an address, reported at its own `pc`. -/
theorem traps_raise_to {s : State} {x : Trap} {ret : Word} (hx : takeTrap x s = hardFault ret s) :
    Traps (raise x s) (x.toFault s) s ret :=
  ⟨raise_terminal x, becomesHardFault_of_next fun hm => by rw [raise_armv6m x hm, hx]⟩

/-- A trap for an even target returns to the target. -/
theorem traps_invalidState {s : State} {v : Word} (heven : v.getLsbD 0 = false) :
    Traps (raise (.invalidState v) s) (.invalidState v s.pc s) s v := by
  have hv : clearBit0 v = v := by
    rw [clearBit0_eq_iff]
    simpa [BitVec.getLsbD, Nat.testBit_zero] using heven
  exact traps_raise_to (by rw [takeTrap, hv])

theorem branchTo_even {s : State} {v : Word} (heven : v.getLsbD 0 = false) (hv : ordinaryTarget s v) :
    branchTo v s = raise (.invalidState v) s := by
  rw [branchTo, isExceptionReturn_ordinary hv, heven, if_neg Bool.false_ne_true, if_neg Bool.false_ne_true]

/-- `GOSUB Rm` to an even value. -/
theorem execGosubReg_even {s : State} {rm : BitVec 4} (hrm : rm ≠ 15) (heven : (s.reg rm).getLsbD 0 = false) :
    execGosubReg rm s = raise (.invalidState (s.reg rm)) s := by
  rw [execGosubReg, if_neg hrm]
  exact if_neg (by rw [heven]; exact Bool.false_ne_true)

/-- Settles O36: the three branches are the trap of `traps_invalidState`. -/
theorem registerBranchesToEvenValuesTrap : Obligations.RegisterBranchesToEvenValuesTrap := by
  intro s rm
  refine ⟨fun hrm heven hv => ?goto, fun hrm heven => ?gosub, fun heven hv => ?ret, rfl, rfl⟩
  case goto =>
    have hexec : exec (.gotoReg rm) s = raise (.invalidState (s.reg rm)) s :=
      (if_neg hrm).trans (branchTo_even heven hv)
    rw [hexec]
    exact traps_invalidState heven
  case gosub =>
    have hexec : exec (.gosubReg rm) s = raise (.invalidState (s.reg rm)) s := execGosubReg_even hrm heven
    rw [hexec]
    exact traps_invalidState heven
  case ret =>
    have hexec : exec .ret s = raise (.invalidState s.lr) s := branchTo_even heven hv
    rw [hexec]
    exact traps_invalidState heven

/-! ### The registers of a list -/

/-- The eight low registers, split at one of them. -/
theorem lowRegisters_split (r : BitVec 3) : ∃ l m : List (BitVec 3),
    [0, 1, 2, 3, 4, 5, 6, 7] = l ++ r :: m ∧ l.map BitVec.toNat = List.range r.toNat :=
  ⟨([0, 1, 2, 3, 4, 5, 6, 7] : List (BitVec 3)).take r.toNat,
    ([0, 1, 2, 3, 4, 5, 6, 7] : List (BitVec 3)).drop (r.toNat + 1), by revert r; decide⟩

/-- A listed register stands after the listed ones below it. -/
theorem listedRegs_below {list : BitVec 8} {r : BitVec 3} (h : list.getLsbD r.toNat = true) :
    (listedRegs list)[below list r]? = some r := by
  obtain ⟨l, m, hsplit, hl⟩ := lowRegisters_split r
  have hbelow : below list r = (l.filter fun q => list.getLsbD q.toNat).length := by
    rw [below, ← hl, List.filter_map, List.length_map]
    rfl
  rw [listedRegs, hsplit, List.filter_append, List.filter_cons_of_pos (p := fun q : BitVec 3 => list.getLsbD q.toNat) h,
    hbelow, List.getElem?_append_right le_rfl, Nat.sub_self, List.getElem?_cons_zero]

theorem below_lt_listCount {list : BitVec 8} {r : BitVec 3} (h : list.getLsbD r.toNat = true) :
    below list r < listCount list := by
  rw [← listedRegs_length]
  exact (List.getElem?_eq_some_iff.mp (listedRegs_below h)).1

theorem listCount_le (list : BitVec 8) : listCount list ≤ 8 :=
  (List.length_filter_le _ _).trans List.length_range.le

theorem listCount_pos {list : BitVec 8} (h : list ≠ 0) : 0 < listCount list := by
  have hbit : ∃ i < 8, list.getLsbD i = true := by
    by_contra hnone
    refine h (BitVec.eq_of_getLsbD_eq fun i hi => ?_)
    simpa using fun hbit => hnone ⟨i, hi, hbit⟩
  obtain ⟨i, hi, hbit⟩ := hbit
  exact List.length_pos_of_mem (List.mem_filter.mpr ⟨List.mem_range.mpr hi, hbit⟩)

theorem ne_zero_of_listCount_pos {list : BitVec 8} (h : 0 < listCount list) : list ≠ 0 := by
  rintro rfl
  exact absurd h (by decide)

theorem ne_zero_of_popCount_pos {list : BitVec 9} (h : 0 < popCount list) : list ≠ 0 := by
  rintro rfl
  exact absurd h (by decide)

theorem popCount_le (list : BitVec 9) : popCount list ≤ 9 := by
  rw [popCount_eq]
  have h := listCount_le (list.setWidth 8)
  split <;> omega

/-- The base is in the list and some lower register is too (R241). -/
theorem baseNotLowest_iff (rn : BitVec 3) (list : BitVec 8) :
    baseNotLowest rn list = true ↔ list.getLsbD rn.toNat = true ∧ ∃ j < rn.toNat, list.getLsbD j = true := by
  simp only [baseNotLowest, Bool.and_eq_true, List.any_eq_true, mem_listedRegs, decide_eq_true_eq]
  refine and_congr_right fun _ => ⟨fun ⟨r, hr, hlt⟩ => ⟨r.toNat, hlt, hr⟩, fun ⟨j, hlt, hj⟩ => ?_⟩
  have hjr : (BitVec.ofNat 3 j).toNat = j := by
    rw [BitVec.toNat_ofNat, Nat.mod_eq_of_lt]
    omega
  exact ⟨BitVec.ofNat 3 j, by rwa [hjr], by rwa [hjr]⟩

theorem baseNotLowest_false {rn : BitVec 3} {list : BitVec 8}
    (h : list.getLsbD rn.toNat = true → ∀ j < rn.toNat, list.getLsbD j = false) : baseNotLowest rn list = false := by
  rw [← Bool.not_eq_true, baseNotLowest_iff]
  rintro ⟨hrn, j, hlt, hj⟩
  rw [h hrn j hlt] at hj
  cases hj

/-! ### Words read into registers -/

theorem aligned_of_and {a : Word} (h : a &&& 3#32 = 0) : aligned a .word = true := by
  have hand : a.toNat &&& 3 = 0 := (BitVec.toNat_and a 3#32).symm.trans (congrArg BitVec.toNat h)
  exact (aligned_iff a .word).mpr ((Nat.and_two_pow_sub_one_eq_mod a.toNat 2).symm.trans hand)

theorem alignWord_of_and {a : Word} (h : a &&& 3#32 = 0) : alignWord a = a :=
  (alignWord_eq_iff a).mpr ((aligned_iff a .word).mp (aligned_of_and h))

/-- The words from an address up. -/
def wordsAt (s : State) (a : Word) (n : Nat) : List Word := (List.range n).map fun k => wordAt s (wordUp a k)

theorem wordsAt_length (s : State) (a : Word) (n : Nat) : (wordsAt s a n).length = n := by
  rw [wordsAt, List.length_map, List.length_range]

theorem wordsAt_getElem? (s : State) (a : Word) {n k : Nat} (h : k < n) :
    (wordsAt s a n)[k]? = some (wordAt s (wordUp a k)) := by
  rw [wordsAt, List.getElem?_map, List.getElem?_range h]
  rfl

/-- Words read from plain memory. -/
theorem readWords_wordsAt {s : State} {a : Word} {n : Nat} (ha : aligned a .word = true)
    (hc : plainWords s .read a n) : readWords a n s = .ok (wordsAt s a n) s := by
  have hword : (fun k => s.mem.load (wordUp a k) 4) = fun k => wordAt s (wordUp a k) := funext fun k => load_word s _
  rw [wordsAt, ← hword]
  exact readWords_plain a n s (.inl ha) hc

/-- A listed register gets its word, every other one keeps its value (R211, R240). -/
theorem lo_setValues_wordsAt (s t : State) (list : BitVec 8) (a : Word) {n : Nat} (hn : listCount list ≤ n)
    (r : BitVec 3) : (t.setValues (listedRegs list) (wordsAt s a n)).lo r =
      if list.getLsbD r.toNat then wordAt s (wordUp a (below list r)) else t.lo r := by
  obtain ⟨hother, hlisted⟩ := State.lo_setValues (listedRegs list) (wordsAt s a n) t (listedRegs_nodup list)
    (by rw [listedRegs_length, wordsAt_length]; exact hn) r
  split
  · next h =>
    exact hlisted _ _ (listedRegs_below h) (wordsAt_getElem? s a ((below_lt_listCount h).trans_le hn))
  · next h => exact hother (by rwa [mem_listedRegs])

theorem sameHigh_setValues (s : State) (rs : List (BitVec 3)) (vs : List Word) : sameHigh s (s.setValues rs vs) := by
  induction rs generalizing s vs with
  | nil => exact fun _ _ => rfl
  | cons r rs ih =>
    cases vs with
    | nil => exact fun _ _ => rfl
    | cons v vs => exact fun k hk => (ih (s.setLo r v) vs k hk).trans (sameHigh_setLo s r v k hk)

/-- The low registers and `R8` to `R12` are all of them. -/
theorem regs_ext {s t : State} (hlo : ∀ r : BitVec 3, s.lo r = t.lo r) (hhigh : sameHigh t s) : s.regs = t.regs := by
  refine Vector.ext fun i hi => ?_
  by_cases h8 : i < 8
  · have h := hlo (BitVec.ofNat 3 i)
    have hi3 : (BitVec.ofNat 3 i).toNat = i := by
      rw [BitVec.toNat_ofNat, Nat.mod_eq_of_lt]
      omega
    simpa only [State.lo, hi3] using h
  · have h := hhigh i (by omega)
    rwa [Vector.getElem?_eq_getElem hi, Vector.getElem?_eq_getElem hi, Option.some_inj] at h

theorem setValues_eq (s : State) (rs : List (BitVec 3)) (vs : List Word) :
    s.setValues rs vs = { s with regs := (s.setValues rs vs).regs } := by
  obtain ⟨r, h⟩ := State.setValues_keeps rs vs s
  rw [h]

/-- Registers left without their values (R293): the others, and all else but the free values, are kept. -/
theorem freeRegs_lost (s : State) (rs : List (BitVec 3)) {list : BitVec 8}
    (hrs : ∀ r ∈ rs, list.getLsbD r.toNat = true) :
    (∀ r : BitVec 3, list.getLsbD r.toNat = false → (s.freeRegs rs).lo r = s.lo r) ∧ sameHigh s (s.freeRegs rs) ∧
      s.freeRegs rs = { s with regs := (s.freeRegs rs).regs, freeIdx := (s.freeRegs rs).freeIdx } := by
  refine ⟨fun r hr => State.lo_freeRegs rs s fun hmem => ?_, sameHigh_freeRegs s rs, ?_⟩
  · rw [hrs r hmem] at hr
    cases hr
  · obtain ⟨r, k, h⟩ := State.freeRegs_keeps rs s
    rw [h]

theorem freeRegs_pc (s : State) (rs : List (BitVec 3)) : (s.freeRegs rs).pc = s.pc := (precise_freeRegs s rs).pc

/-! ### `POP` (R211) -/

/-- The state after the loads of a `POP` from plain memory, before `pc` is written. -/
def popped (s : State) (list : BitVec 9) : State :=
  (s.setValues (listedRegs (list.setWidth 8)) (wordsAt s s.sp (popCount list))).setSp (s.sp + wordsLong (popCount list))

theorem popped_lo (s : State) (list : BitVec 9) (r : BitVec 3) : (popped s list).lo r =
    if (list.setWidth 8).getLsbD r.toNat then wordAt s (wordUp s.sp (below (list.setWidth 8) r)) else s.lo r := by
  rw [popped, State.lo_setSp, lo_setValues_wordsAt]
  rw [popCount_eq]
  exact Nat.le_add_right _ _

theorem sameHigh_popped (s : State) (list : BitVec 9) : sameHigh s (popped s list) := fun k hk => by
  rw [popped, State.setSp_regs]
  exact sameHigh_setValues s _ _ k hk

theorem popped_eq (s : State) (list : BitVec 9) :
    popped s list = { withStack s (wordUp s.sp (popCount list)) with regs := (popped s list).regs } := by
  rw [popped, setValues_eq, setSp_eq_withStack]
  unfold withStack
  split <;> rfl

theorem popped_pc (s : State) (list : BitVec 9) : (popped s list).pc = s.pc := by
  rw [popped_eq]
  exact withStack_pc s _

theorem plainWords_pop {s : State} {list : BitVec 9} {kind : AccessKind} {a : Word} :
    plainWords s kind a (listCount (list.setWidth 8) + if list.getLsbD 8 then 1 else 0) ↔
      plainWords s kind a (popCount list) := by
  rw [popCount_eq]

/-- A `POP` from plain memory, by its last word where `PC` is listed. -/
theorem execPop_plain {s : State} {list : BitVec 9} (hne : list ≠ 0) (hsp : s.sp &&& 3#32 = 0)
    (hc : plainWords s .read s.sp (popCount list)) :
    execPop list s =
      if list.getLsbD 8 then
        if s.isExceptionReturn (wordAt s (wordUp s.sp (listCount (list.setWidth 8)))) then
          .next (exceptionReturn (wordAt s (wordUp s.sp (listCount (list.setWidth 8)))) (popped s list))
        else if (wordAt s (wordUp s.sp (listCount (list.setWidth 8)))).getLsbD 0 then
          .next { popped s list with pc := clearBit0 (wordAt s (wordUp s.sp (listCount (list.setWidth 8)))) }
        else raise (.invalidState (wordAt s (wordUp s.sp (listCount (list.setWidth 8)))))
          (s.freeRegs (listedRegs (list.setWidth 8)))
      else .next ((popped s list).advance 2) := by
  rw [execPop, if_neg hne, readWords_wordsAt (aligned_of_and hsp) hc]
  simp only
  split
  · next h8 =>
    have hlast : (wordsAt s s.sp (popCount list)).getD (listedRegs (list.setWidth 8)).length 0 =
        wordAt s (wordUp s.sp (listCount (list.setWidth 8))) := by
      rw [List.getD_eq_getElem?_getD, listedRegs_length, wordsAt_getElem?, Option.getD_some]
      rw [popCount_eq, if_pos h8]
      exact Nat.lt_succ_self _
    rw [hlast]
    rfl
  · rfl

/-- Settles O38: `execPop_plain`, with what `popped` holds. -/
theorem popLoadsTheListUpwards : Obligations.PopLoadsTheListUpwards := by
  intro s list low n target hne hsp hplain
  have hexec : exec (.pop list) s = _ := execPop_plain hne hsp (plainWords_pop.mp hplain)
  have hn : s.sp + BitVec.ofNat 32 (4 * n) = wordUp s.sp (popCount list) := by rw [wordUp, popCount_eq]
  refine ⟨fun hpc => ?loads, fun h8 heven hv => ?traps⟩
  case loads =>
    have hnext : exec (.pop list) s =
        .next { popped s list with pc := if list.getLsbD 8 then target &&& ~~~1#32 else s.pc + 2 } := by
      rw [hexec]
      split
      · next h8 =>
        obtain ⟨hodd, hv⟩ := hpc h8
        rw [isExceptionReturn_ordinary hv, if_neg Bool.false_ne_true, if_pos hodd]
        rfl
      · rw [State.advance, popped_pc]
    refine ⟨_, hnext, popped_lo s list, sameHigh_popped s list, ?_⟩
    rw [popped_eq, hn]
  case traps =>
    have htrap : exec (.pop list) s = raise (.invalidState target) (s.freeRegs (listedRegs low)) := by
      rw [hexec, if_pos h8, isExceptionReturn_ordinary hv, if_neg Bool.false_ne_true, heven,
        if_neg Bool.false_ne_true]
    refine ⟨_, ?_, freeRegs_lost s (listedRegs low) fun r => (mem_listedRegs low r).mp⟩
    rw [htrap, ← freeRegs_pc s (listedRegs low)]
    exact traps_invalidState heven

end Sys2Proof.Claims

/-! PROOFS. Stores of several registers (R210, R241), `LDM` (R240), and where the multiple transfers stop (R56, R58,
R210, R211, R291, R293). -/

namespace Sys2Proof.Claims
open Sys2Proof.Machine

/-! ### Words stored in order -/

/-- `t` is `s` after words are stored from an address up: in its memory and in the marks of R67. -/
structure Stored (s t : State) (a : Word) (vs : List Word) : Prop where
  words : ∀ k v, vs[k]? = some v → wordAt t (wordUp a k) = v
  outside : sameOutside s t a (4 * vs.length)
  marks : marked s t a (4 * vs.length)

/-- Words stored to plain memory. -/
theorem writeWords_stored {s : State} {a : Word} {vs : List Word} (hn : vs.length ≤ 9) (ha : aligned a .word = true)
    (hc : plainWords s .write a vs.length) :
    ∃ m d, writeWords a vs s = .ok () { s with mem := m, dirty := d } ∧
      ∀ t : State, t.mem = m → t.dirty = d → Stored s t a vs := by
  obtain ⟨m, d, hwrite, hloads, hother, hmarks, -⟩ := writeWords_plain a vs s (by omega) (.inl ha) hc
  refine ⟨m, d, hwrite, fun t hmem hdirty => ⟨fun k v hv => ?_, fun b hb => ?_, fun b => ?_⟩⟩
  · obtain ⟨hk, rfl⟩ := List.getElem?_eq_some_iff.mp hv
    rw [← load_word, hmem]
    exact hloads k hk
  · rw [hmem]
    exact hother b hb
  · rw [hdirty]
    exact hmarks b

theorem values_below {s : State} {list : BitVec 8} {r : BitVec 3} (h : list.getLsbD r.toNat = true) :
    (s.values (listedRegs list))[below list r]? = some (s.lo r) := by
  rw [State.values, List.getElem?_map, listedRegs_below h]
  rfl

theorem values_length (s : State) (list : BitVec 8) : (s.values (listedRegs list)).length = listCount list := by
  rw [State.values, List.length_map, listedRegs_length]

theorem aligned_wordUp {a : Word} (h : aligned a .word = true) (k : Nat) : aligned (wordUp a k) .word = true := by
  rw [aligned_iff, Size.bytes] at *
  rw [wordUp, BitVec.toNat_add, BitVec.toNat_ofNat]
  omega

theorem aligned_sub_words {a : Word} (h : aligned a .word = true) (n : Nat) :
    aligned (a - wordsLong n) .word = true := by
  rw [aligned_iff, Size.bytes] at *
  rw [wordsLong, BitVec.toNat_sub, BitVec.toNat_ofNat]
  omega

/-! ### `STM` and `LDM` in plain memory (R240, R241) -/

theorem aligned_of_mod {a : Word} (h : a.toNat % 4 = 0) : aligned a .word = true := (aligned_iff a .word).mpr h

/-- `STM` with a list that it admits, by what its stores do. -/
theorem execStm_of_lowest {s : State} {rn : BitVec 3} {list : BitVec 8} (hne : list ≠ 0)
    (hlow : list.getLsbD rn.toNat = true → ∀ j < rn.toNat, list.getLsbD j = false) :
    execStm rn list s = (writeWords (s.lo rn) (s.values (listedRegs list)) s).andThen fun _ t =>
      .next ((t.setLo rn (wordUp (s.lo rn) (listCount list))).advance 2) := by
  rw [execStm, if_neg hne, baseNotLowest_false hlow, if_neg Bool.false_ne_true, ← listedRegs_length]
  rfl

/-- Settles O41: `writeWords_stored`. -/
theorem storeMultipleStoresTheList : Obligations.StoreMultipleStoresTheList := by
  intro s rn list hne hlow halign hplain
  have hcount := values_length s list
  obtain ⟨m, d, hwrite, hstored⟩ := writeWords_stored (by rw [hcount]; have := listCount_le list; omega)
    (aligned_of_mod halign) (hcount.symm ▸ hplain)
  have hexec : exec (.stm rn list) s =
      .next { wroteReg s rn (wordUp (s.lo rn) (listCount list)) with mem := m, dirty := d } := by
    refine (execStm_of_lowest hne hlow).trans ?_
    rw [hwrite]
    rfl
  obtain ⟨hwords, houtside, hmarks⟩ :=
    hstored { wroteReg s rn (wordUp (s.lo rn) (listCount list)) with mem := m, dirty := d } rfl rfl
  rw [hcount] at houtside hmarks
  exact ⟨_, hexec, fun r hr => hwords _ _ (values_below hr), houtside, hmarks, rfl⟩

/-- Settles O40: `readWords_wordsAt` and `lo_setValues_wordsAt`; an unlisted base is written last. -/
theorem loadMultipleFillsTheList : Obligations.LoadMultipleFillsTheList := by
  intro s rn list hne halign hplain
  let loaded := s.setValues (listedRegs list) (wordsAt s (s.lo rn) (listCount list))
  have hloaded : loaded = { s with regs := loaded.regs } := setValues_eq s _ _
  have hlo : ∀ r : BitVec 3, loaded.lo r = _ := lo_setValues_wordsAt s s list (s.lo rn) le_rfl
  have hhigh : sameHigh s loaded := sameHigh_setValues s _ _
  have hexec : exec (.ldm rn list) s = if list.getLsbD rn.toNat then .next (loaded.advance 2)
      else .next ((loaded.setLo rn (wordUp (s.lo rn) (listCount list))).advance 2) := by
    refine (if_neg hne).trans ?_
    rw [listedRegs_length, readWords_wordsAt (aligned_of_mod halign) hplain]
    rfl
  by_cases hlisted : list.getLsbD rn.toNat = true
  · rw [if_pos hlisted] at hexec
    refine ⟨_, hexec, fun r => ?_, hhigh, ?_⟩
    · rw [State.lo_advance, hlo r]
      refine ite_congr rfl (fun _ => rfl) fun hr => (if_neg ?_).symm
      rintro rfl
      exact hr hlisted
    · rw [hloaded]
      rfl
  · rw [if_neg hlisted] at hexec
    refine ⟨_, hexec, fun r => ?_, fun k hk => (sameHigh_setLo loaded rn _ k hk).trans (hhigh k hk), ?_⟩
    · rw [State.lo_advance, State.lo_setLo, hlo r]
      by_cases hr : rn = r
      · rw [if_pos hr, ← hr, if_neg hlisted, if_pos rfl]
      · rw [if_neg hr, if_neg (Ne.symm hr)]
    · rw [hloaded]
      rfl

/-! ### `PUSH` to plain memory (R210) -/

theorem pushWords_length (s : State) (list : BitVec 9) : (s.pushWords list).length = popCount list := by
  rw [State.pushWords, List.length_append, State.values, List.length_map, popCount]
  split <;> rfl

theorem pushWords_below {s : State} {list : BitVec 9} {r : BitVec 3}
    (h : (list.setWidth 8).getLsbD r.toNat = true) :
    (s.pushWords list)[below (list.setWidth 8) r]? = some (s.lo r) := by
  rw [State.pushWords, List.getElem?_append_left, values_below h]
  rw [values_length]
  exact below_lt_listCount h

theorem pushWords_last {s : State} {list : BitVec 9} (h8 : list.getLsbD 8 = true) :
    (s.pushWords list)[listCount (list.setWidth 8)]? = some s.lr := by
  rw [State.pushWords, if_pos h8, List.getElem?_append_right (values_length s _).le, values_length, Nat.sub_self]
  rfl

/-- The address of the lowest word that a `PUSH` stores. -/
def pushBase (s : State) (list : BitVec 9) : Word := s.sp - wordsLong (popCount list)

theorem pushSlots_eq (s : State) (list : BitVec 9) :
    s.pushSlots list = slotsFrom (pushBase s list) (s.pushWords list) := by
  rw [State.pushSlots, pushWords_length, pushBase]

theorem slotsFrom_length (a : Word) (vs : List Word) : (slotsFrom a vs).length = vs.length := by
  induction vs generalizing a with
  | nil => rfl
  | cons v vs ih => rw [slotsFrom, List.length_cons, List.length_cons, ih]

theorem pushSlots_length (s : State) (list : BitVec 9) : (s.pushSlots list).length = popCount list := by
  rw [pushSlots_eq, slotsFrom_length, pushWords_length]

theorem pushSlots_mem {s : State} {list : BitVec 9} {e : Word × Word} (h : e ∈ s.pushSlots list) :
    ∃ k < popCount list, e.1 = wordUp (pushBase s list) k := by
  rw [pushSlots_eq] at h
  obtain ⟨k, hk, rfl⟩ := slotsFrom_mem h
  exact ⟨k, pushWords_length s list ▸ hk, rfl⟩

theorem slotsPlain_pushSlots {s : State} {list : BitVec 9}
    (h : plainWords s .write (pushBase s list) (popCount list)) : s.slotsPlain (s.pushSlots list) = true := by
  refine List.all_eq_true.mpr fun e he => ?_
  obtain ⟨k, hk, hek⟩ := pushSlots_mem he
  rw [hek, h k hk]
  rfl

/-- A `PUSH` to plain memory. -/
theorem execPush_plain {s : State} {list : BitVec 9} (hne : list ≠ 0) (hsp : s.sp &&& 3#32 = 0)
    (hc : plainWords s .write (pushBase s list) (popCount list)) :
    ∃ m d, exec (.push list) s =
        .next { withStack s (pushBase s list) with mem := m, dirty := d, pc := s.pc + 2 } ∧
      ∀ t : State, t.mem = m → t.dirty = d → Stored s t (pushBase s list) (s.pushWords list) := by
  have hlen := pushWords_length s list
  have hslots := slotsPlain_pushSlots hc
  obtain ⟨m, d, hwrite, hstored⟩ := writeWords_stored (by rw [hlen]; exact popCount_le list)
    (aligned_sub_words (aligned_of_and hsp) (popCount list)) (hlen.symm ▸ hc)
  rw [writeWords_eq_writeSlots, ← pushBase, ← pushSlots_eq] at hwrite
  refine ⟨m, d, (if_neg hne).trans ?_, hstored⟩
  rw [State.pushOrder, if_pos hslots, State.pushStart, if_pos hslots, hwrite, pushSlots_length]
  simp only
  rw [setSp_advance]
  unfold withStack pushBase
  split <;> rfl

/-- The last word of a `PUSH` with `LR` stands just below the stack pointer. -/
theorem wordUp_pushBase {s : State} {list : BitVec 9} (h8 : list.getLsbD 8 = true) :
    wordUp (pushBase s list) (listCount (list.setWidth 8)) = s.sp - 4 := by
  have hcount := listCount_le (list.setWidth 8)
  rw [pushBase, popCount_eq, if_pos h8, wordsLong, wordUp]
  bv_omega

/-- Settles O37: `execPush_plain`, and where the words stand. -/
theorem pushStoresTheListDownwards : Obligations.PushStoresTheListDownwards := by
  intro s list low n base hne hsp hplain
  have hn : n = popCount list := (popCount_eq list).symm
  have hbase : base = pushBase s list := by rw [pushBase, wordsLong, ← hn]
  clear_value base n
  subst hn hbase
  obtain ⟨m, d, hexec, hstored⟩ := execPush_plain hne hsp hplain
  obtain ⟨hwords, houtside, hmarks⟩ :=
    hstored { withStack s (pushBase s list) with mem := m, dirty := d, pc := s.pc + 2 } rfl rfl
  rw [pushWords_length] at houtside hmarks
  refine ⟨_, hexec, fun r hr => hwords _ _ (pushWords_below hr), fun h8 => ?_, houtside, hmarks, rfl⟩
  rw [← wordUp_pushBase h8]
  exact hwords _ _ (pushWords_last h8)

/-! ### `POP` after `PUSH` -/

theorem and_of_aligned {a : Word} (h : aligned a .word = true) : a &&& 3#32 = 0 := by
  apply BitVec.eq_of_toNat_eq
  rw [BitVec.toNat_and]
  exact (Nat.and_two_pow_sub_one_eq_mod a.toNat 2).trans ((aligned_iff a .word).mp h)

theorem withStack_undisturbed (s : State) (v : Word) : Undisturbed s (withStack s v) :=
  setSp_eq_withStack s v ▸ undisturbed_setSp s v

theorem withStack_mem (s : State) (v : Word) : (withStack s v).mem = s.mem := by
  rw [← setSp_eq_withStack, State.setSp_mem]

theorem withStack_sp {v : Word} (s : State) (h : aligned v .word = true) : (withStack s v).sp = v := by
  rw [← setSp_eq_withStack, State.sp_setSp]
  exact alignWord_of_and (and_of_aligned h)

/-- Admission is the map's (R43). -/
theorem plainWords_congr {s t : State} (hcfg : t.cfg = s.cfg) {kind : AccessKind} {a : Word} {n : Nat}
    (h : plainWords s kind a n) : plainWords t kind a n := fun k hk => by
  rw [State.accessClass, hcfg]
  exact h k hk

theorem ordinaryTarget_congr {s t : State} (hcfg : t.cfg = s.cfg) (hmode : t.mode = s.mode) {v : Word}
    (h : ordinaryTarget s v) : ordinaryTarget t v := by
  rwa [ordinaryTarget, hcfg, hmode]

/-- Settles O39: `POP` from the words that `execPush_plain` stores. -/
theorem popUndoesPush : Obligations.PopUndoesPush := by
  intro s t list between low n base hsp hwrite hread hlr hpush
  have hn : n = popCount list := (popCount_eq list).symm
  have hbase : base = pushBase s list := by rw [pushBase, wordsLong, ← hn]
  clear_value base n
  subst hn hbase
  have hne : list ≠ 0 := by
    rintro rfl
    cases hpush
  obtain ⟨m, d, hexec, hstored⟩ := execPush_plain hne hsp hwrite
  obtain rfl : _ = t := Host.Outcome.next.inj (hexec.symm.trans hpush)
  let v : State := { withStack s (pushBase s list) with mem := m, dirty := d, pc := s.pc + 2, regs := between }
  obtain ⟨hwords, -, -⟩ := hstored v rfl rfl
  have hstack := withStack_undisturbed s (pushBase s list)
  have halign := aligned_sub_words (aligned_of_and hsp) (popCount list)
  have hvsp : v.sp = pushBase s list := withStack_sp s halign
  have hlast : list.getLsbD 8 = true → wordAt v (wordUp v.sp (listCount low)) = s.lr := fun h8 => by
    rw [hvsp]
    exact hwords _ _ (pushWords_last h8)
  have hback : v.sp + BitVec.ofNat 32 (4 * popCount list) = s.sp := by
    rw [hvsp]
    exact BitVec.sub_add_cancel _ _
  have hvplain : plainWords v .read v.sp (popCount list) := by
    rw [hvsp]
    exact plainWords_congr hstack.cfg hread
  obtain ⟨u, hpop, hlo, -, hu⟩ := (popLoadsTheListUpwards v list hne (by rw [hvsp]; exact and_of_aligned halign)
    (plainWords_pop.mpr hvplain)).1 fun h8 => by
      rw [hlast h8]
      obtain ⟨hodd, hv⟩ := hlr h8
      exact ⟨hodd, ordinaryTarget_congr hstack.cfg hstack.mode hv⟩
  rw [← popCount_eq, hback] at hu
  refine ⟨u, hpop, fun r => ?_, ?_, ?_, ?_⟩
  · rw [hlo r]
    refine ite_congr rfl (fun hr => ?_) fun _ => rfl
    rw [hvsp]
    exact hwords _ _ (pushWords_below hr)
  · rw [hu]
    exact withStack_sp v (aligned_of_and hsp)
  · rw [hu]
    exact withStack_mem v s.sp
  · rw [hu]
    refine ite_congr rfl (fun h8 => ?_) fun _ => ?_
    · rw [hlast h8]
    · exact add_assoc s.pc 2 2

end Sys2Proof.Claims

/-! PROOFS. Where the multiple transfers stop, and with what they leave (R56, R58, R210, R211, R291, R293). -/

namespace Sys2Proof.Claims
open Sys2Proof.Machine

theorem traps_busFault_at {t : State} {pc : Word} (a : Word) (k : AccessKind) (h : t.pc = pc) :
    Traps (raise (.busFault a k) t) (.busFault a k pc t) t pc := by
  subst h
  exact traps_raise rfl

theorem traps_unaligned_at {t : State} {pc : Word} (a : Word) (h : t.pc = pc) :
    Traps (raise (.unalignedAccess a) t) (.unalignedAccess a pc t) t pc := by
  subst h
  exact traps_raise rfl

theorem readWords_misaligned {s : State} {a : Word} {n : Nat} (ha : a.toNat % 4 ≠ 0) (hn : 0 < n) :
    readWords a n s = .trap (.unalignedAccess a) s := by
  cases n with
  | zero => cases hn
  | succ n => rw [readWords, memRead_misaligned .read s ha]

theorem writeWords_misaligned {s : State} {a : Word} {vs : List Word} (ha : a.toNat % 4 ≠ 0) (hn : 0 < vs.length) :
    writeWords a vs s = .trap (.unalignedAccess a) s := by
  cases vs with
  | nil => cases hn
  | cons v vs => rw [writeWords, memWrite_misaligned v s ha]

/-! ### Loads cut short -/

/-- What a `POP` or `LDM` that traps leaves: the listed registers without their values, all else kept (R293). -/
def Lost (s t : State) (list : BitVec 8) : Prop :=
  (∀ r : BitVec 3, list.getLsbD r.toNat = false → t.lo r = s.lo r) ∧ sameHigh s t ∧
    t = { s with regs := t.regs, freeIdx := t.freeIdx }

/-- `LDM` whose words cannot all be read. -/
theorem execLdm_trap {s : State} {rn : BitVec 3} {list : BitVec 8} {x : Trap} (hne : list ≠ 0)
    (hread : readWords (s.lo rn) (listCount list) s = .trap x s) :
    ∃ t, exec (.ldm rn list) s = raise x t ∧ t.pc = s.pc ∧ t.lo rn = s.lo rn ∧ Lost s t list := by
  let rs := (listedRegs list).filter (· ≠ rn)
  have hexec : exec (.ldm rn list) s = raise x (s.freeRegs rs) := by
    refine (if_neg hne).trans ?_
    rw [listedRegs_length, hread]
  refine ⟨_, hexec, freeRegs_pc s rs, State.lo_freeRegs rs s ?base, freeRegs_lost s rs fun r hr => ?listed⟩
  case base => simp [rs]
  case listed => exact (mem_listedRegs list r).mp (List.mem_of_mem_filter hr)

/-- `POP` whose words cannot all be read. -/
theorem execPop_trap {s : State} {list : BitVec 9} {x : Trap} (hne : list ≠ 0)
    (hread : readWords s.sp (popCount list) s = .trap x s) :
    ∃ t, exec (.pop list) s = raise x t ∧ t.pc = s.pc ∧ Lost s t (list.setWidth 8) := by
  let rs := listedRegs (list.setWidth 8)
  have hexec : exec (.pop list) s = raise x (s.freeRegs rs) := by
    refine (if_neg hne).trans ?_
    rw [hread]
  exact ⟨_, hexec, freeRegs_pc s rs, freeRegs_lost s rs fun r => (mem_listedRegs _ r).mp⟩

/-! ### Stores cut short -/

/-- `STM` up to a word that cannot be written. -/
theorem execStm_blocked {s : State} {rn : BitVec 3} {list : BitVec 8} {k : Nat}
    (hlow : list.getLsbD rn.toNat = true → ∀ j < rn.toNat, list.getLsbD j = false)
    (halign : (s.lo rn).toNat % 4 = 0) (hblocked : blockedAt s .write (s.lo rn) (listCount list) k) :
    ∃ m d, exec (.stm rn list) s = raise (.busFault (wordUp (s.lo rn) k) .write) { s with mem := m, dirty := d } ∧
      Stored s { s with mem := m, dirty := d } (s.lo rn) ((s.values (listedRegs list)).take k) := by
  obtain ⟨hk, hplain, hnone⟩ := hblocked
  have hne : list ≠ 0 := ne_zero_of_listCount_pos (Nat.zero_lt_of_lt hk)
  have hcount := values_length s list
  have hle := listCount_le list
  have htake : ((s.values (listedRegs list)).take k).length = k := by
    rw [List.length_take, hcount]
    omega
  obtain ⟨m, d, htaken, htrap, -⟩ := writeWords_blocked (s.lo rn) (s.values (listedRegs list)) k s
    (aligned_of_mod halign) (hcount.symm ▸ hk) (by omega) hplain hnone
  obtain ⟨m', d', hwrite, hstored⟩ := writeWords_stored (s := s) (vs := (s.values (listedRegs list)).take k)
    (by omega) (aligned_of_mod halign) (htake.symm ▸ hplain)
  have hsame : { s with mem := m', dirty := d' } = { s with mem := m, dirty := d } := by
    rw [hwrite] at htaken
    exact (Access.ok.inj htaken).2
  refine ⟨m, d, ?_, hsame ▸ hstored _ rfl rfl⟩
  refine (execStm_of_lowest hne hlow).trans ?_
  rw [htrap]
  rfl

theorem slotsFrom_getElem? {vs : List Word} {k : Nat} {v : Word} (a : Word) (h : vs[k]? = some v) :
    (slotsFrom a vs)[k]? = some (wordUp a k, v) := by
  induction vs generalizing a k with
  | nil => cases h
  | cons w vs ih =>
    cases k with
    | zero =>
      obtain rfl : w = v := Option.some.inj h
      exact congrArg (fun b => some (b, w)) (BitVec.add_zero a).symm
    | succ k =>
      refine (ih (a + 4) h).trans ?_
      rw [wordUp, add_four_wordUp, ← Nat.mul_succ, wordUp]

theorem pushSlots_has (s : State) (list : BitVec 9) {k : Nat} (hk : k < popCount list) :
    ∃ e ∈ s.pushSlots list, e.1 = wordUp (pushBase s list) k := by
  rw [← pushWords_length s] at hk
  refine ⟨(wordUp (pushBase s list) k, (s.pushWords list)[k]), List.mem_of_getElem? (i := k) ?_, rfl⟩
  rw [pushSlots_eq]
  exact slotsFrom_getElem? _ (List.getElem?_eq_getElem hk)

theorem mem_pushOrder {s : State} {slots : List (Word × Word)} {e : Word × Word} :
    e ∈ s.pushOrder slots ↔ e ∈ slots := by
  unfold State.pushOrder
  split
  · rfl
  · exact (freeOrder_perm _ _ slots).mem_iff

theorem pushStart_eq (s : State) (slots : List (Word × Word)) :
    s.pushStart slots = { s with freeIdx := (s.pushStart slots).freeIdx } := by
  unfold State.pushStart
  split <;> rfl

theorem execPush_trap {s t : State} {list : BitVec 9} {x : Trap} (hne : list ≠ 0)
    (htrap : writeSlots (s.pushOrder (s.pushSlots list)) (s.pushStart (s.pushSlots list)) = .trap x t) :
    exec (.push list) s = raise x (t.freeSlots (s.pushSlots list)) := by
  refine (if_neg hne).trans ?_
  rw [htrap]

/-- `PUSH` with words that cannot be written: it traps at one of them, and only its slots may have changed. -/
theorem execPush_blocked {s : State} {list : BitVec 9} {k : Nat} (hsp : s.sp &&& 3#32 = 0) (hk : k < popCount list)
    (hnone : s.accessClass .write (wordUp (pushBase s list) k) .word = none)
    (hclass : ∀ m < popCount list, s.accessClass .write (wordUp (pushBase s list) m) .word = some .plain ∨
      s.accessClass .write (wordUp (pushBase s list) m) .word = none) :
    ∃ t m, m < popCount list ∧ s.accessClass .write (wordUp (pushBase s list) m) .word = none ∧
      exec (.push list) s = raise (.busFault (wordUp (pushBase s list) m) .write) t ∧
      sameOutside s t (pushBase s list) (4 * popCount list) ∧
      t = { s with mem := t.mem, dirty := t.dirty, freeIdx := t.freeIdx } := by
  let slots := s.pushSlots list
  let start := s.pushStart slots
  have hstart : start = { s with freeIdx := start.freeIdx } := pushStart_eq s slots
  have hadmit : ∀ a : Word, start.accessClass .write a .word = s.accessClass .write a .word := fun a => by
    rw [hstart]
    rfl
  have hbase := aligned_sub_words (aligned_of_and hsp) (popCount list)
  have hslot : ∀ e ∈ s.pushOrder slots, ∃ m < popCount list, e.1 = wordUp (pushBase s list) m := fun e he =>
    pushSlots_mem (mem_pushOrder.mp he)
  obtain ⟨e, he, m, d, hm, htrap⟩ := writeSlots_blocked (s.pushOrder slots) start
    (fun e he => by
      obtain ⟨i, -, hei⟩ := hslot e he
      exact hei ▸ aligned_wordUp hbase i)
    (fun e he => by
      obtain ⟨i, hi, hei⟩ := hslot e he
      rw [hadmit, hei]
      exact hclass i hi)
    (by
      obtain ⟨e, he, hek⟩ := pushSlots_has s list hk
      exact ⟨e, mem_pushOrder.mpr he, by rw [hadmit, hek, hnone]⟩)
  obtain ⟨i, hi, hei⟩ := hslot e he
  rw [hadmit, hei] at hm
  rw [hei] at htrap
  let t := State.freeSlots { start with mem := m, dirty := d } slots
  have hexec : exec (.push list) s = raise (.busFault (wordUp (pushBase s list) i) .write) t :=
    execPush_trap (ne_zero_of_popCount_pos (Nat.zero_lt_of_lt hk)) htrap
  refine ⟨t, i, hi, hm, hexec, fun b hb => ?outside, ?rest⟩
  case outside =>
    have hfar : ∀ e ∈ slots, ∀ j < 4, b ≠ (e.1 + BitVec.ofNat 32 j).toNat := fun e he j hj => by
      obtain ⟨i, hi, hei⟩ := pushSlots_mem he
      rw [hei, wordUp, add_wordUp]
      exact hb _ (by omega)
    have hstore := (writeSlots_outside (s.pushOrder slots) start b fun e he => hfar e (mem_pushOrder.mp he)).2 _ _ htrap
    have hmem : start.mem = s.mem := by rw [hstart]
    rw [State.freeSlots_outside slots _ b hfar, ← hmem]
    exact hstore
  case rest =>
    obtain ⟨m', d', i', ht⟩ := State.freeSlots_eq slots { start with mem := m, dirty := d }
    change t = _ at ht
    rw [ht, hstart]

/-- Settles O42: each transfer by the lemma on where its words stop. -/
theorem multipleTransfersStop : Obligations.MultipleTransfersStop := by
  intro s rn list plist j k count base lost
  have hcount : count = popCount plist := (popCount_eq plist).symm
  have hbase : base = pushBase s plist := by rw [pushBase, wordsLong, ← hcount]
  clear_value base count
  subst hcount hbase
  refine ⟨rfl, rfl, rfl, rfl, fun hrn hj hlist => ?notLowest,
    fun hne hmis => ⟨?ldmMisaligned, fun hlow => ?stmMisaligned⟩, fun halign hblocked => ?ldm,
    fun hlow halign hblocked => ?stm, fun hsp hblocked => ?pop, fun hsp hk hnone hclass => ?push⟩
  case notLowest =>
    have hne : list ≠ 0 := by
      rintro rfl
      simp at hlist
    refine (if_neg hne).trans (if_pos ?_)
    exact (baseNotLowest_iff rn list).mpr ⟨hrn, j, hj, hlist⟩
  case ldmMisaligned =>
    obtain ⟨t, hexec, hpc, hbase, hlost⟩ := execLdm_trap hne (readWords_misaligned hmis (listCount_pos hne))
    exact ⟨t, hexec ▸ traps_unaligned_at _ hpc, hbase, hlost⟩
  case stmMisaligned =>
    have hwrite := writeWords_misaligned (s := s) (vs := s.values (listedRegs list)) hmis
      (values_length s list ▸ listCount_pos hne)
    have hexec : exec (.stm rn list) s = raise (.unalignedAccess (s.lo rn)) s := by
      refine (execStm_of_lowest hne hlow).trans ?_
      rw [hwrite]
      rfl
    exact hexec ▸ traps_unaligned_at _ rfl
  case ldm =>
    obtain ⟨hk, hplain, hnone⟩ := hblocked
    obtain ⟨t, hexec, hpc, hbase, hlost⟩ := execLdm_trap (ne_zero_of_listCount_pos (Nat.zero_lt_of_lt hk))
      (readWords_blocked _ _ k s (aligned_of_mod halign) hk hplain hnone)
    exact ⟨t, hexec ▸ traps_busFault_at _ _ hpc, hbase, hlost⟩
  case stm =>
    obtain ⟨m, d, hexec, hwords, houtside, hmarks⟩ := execStm_blocked hlow halign hblocked
    have htake : ((s.values (listedRegs list)).take k).length = k := by
      rw [List.length_take, values_length]
      exact min_eq_left hblocked.1.le
    rw [htake] at houtside hmarks
    refine ⟨_, hexec ▸ traps_busFault_at _ _ rfl, fun r hr hbelow => hwords _ _ ?_, houtside, hmarks, rfl⟩
    rw [List.getElem?_take_of_lt hbelow, values_below hr]
  case pop =>
    obtain ⟨hk, hplain, hnone⟩ := hblocked
    obtain ⟨t, hexec, hpc, hlost⟩ := execPop_trap (ne_zero_of_popCount_pos (Nat.zero_lt_of_lt hk))
      (readWords_blocked _ _ k s (aligned_of_and hsp) hk hplain hnone)
    exact ⟨t, hexec ▸ traps_busFault_at _ _ hpc, hlost⟩
  case push =>
    obtain ⟨t, m, hm, hmnone, hexec, houtside, ht⟩ := execPush_blocked hsp hk hnone hclass
    have hpc : t.pc = s.pc := by rw [ht]
    exact ⟨t, m, hm, hmnone, hexec ▸ traps_busFault_at _ _ hpc, houtside, ht⟩

end Sys2Proof.Claims

/-! PROOFS. Exceptions taken (R254, R255, R302, R306, R309, R313, R332): entries that fail, traps that become a
HardFault or Lockup, and the step in Lockup and with `T` = 0. -/

namespace Sys2Proof.Claims
open Sys2Proof.Machine

/-- Settles O48: `raise_terminal`; `SVC` and `BKPT` are traps. -/
theorem terminalTrapsReportTheirCause : Obligations.TerminalTrapsReportTheirCause := by
  intro s u8 a k h h2 hm
  exact ⟨raise_terminal (.svCall u8) hm, raise_terminal (.breakpoint u8) hm,
    raise_terminal (.undefinedInstruction h h2) hm, raise_terminal (.unalignedAccess a) hm,
    raise_terminal (.busFault a k) hm, raise_terminal (.invalidState a) hm⟩

/-! ### Entries that fail (R306, R313) -/

/-- A blocked entry has stored in its frame only. -/
theorem exceptionEntry_fails {s : State} {n : Nat} (ret : Word) (h : EntryBlocked s n) :
    ∃ x m d, exceptionEntry n ret s = .trap x { s with mem := m, dirty := d } ∧
      sameOutside s { s with mem := m } (frameOf s) 32 := by
  obtain ⟨hsp, hblocked⟩ := h
  refine exceptionEntry_blocked n ret s (aligned_frameAddr hsp) (hblocked.imp ?_ id)
  rintro ⟨k, hk, hplain, hnone⟩
  exact ⟨k, hk, hplain, hnone⟩

theorem sameOutside.trans {s t u : State} {a : Word} {n : Nat} (h : sameOutside s t a n) (k : sameOutside t u a n) :
    sameOutside s u a n := fun b hb => (k b hb).trans (h b hb)

/-- An entry after stores to its frame is one from before them. -/
theorem Entered.before {s t : State} {m : Memory} {d : List Nat} {n : Nat} {ret : Word}
    (h : Entered { s with mem := m, dirty := d } t n ret) (hout : sameOutside s { s with mem := m } (frameOf s) 32) :
    Entered s t n ret := by
  obtain ⟨hframe, hother, ht⟩ := h
  exact ⟨hframe, sameOutside.trans hout hother, ht⟩

/-- The entry of a HardFault, a blocked one at priority -1 or -2, and one whose HardFault is blocked too, end in
Lockup. -/
theorem takeException_locked {s : State} {n : Nat} (ret : Word) (hb : EntryBlocked s n)
    (h : n = 3 ∨ s.execPriority ≤ -1 ∨ EntryBlocked s 3) :
    LockedInEntry { s with scs := s.scs.clearPending n } (takeException n ret s) := by
  obtain ⟨x, m, d, hentry, hout⟩ := exceptionEntry_fails ret hb
  rw [takeException, hentry]
  simp only
  split
  · exact ⟨hout, rfl⟩
  · next hn =>
    have hb3 : EntryBlocked s 3 := by tauto
    obtain ⟨y, m2, d2, hentry2, hout2⟩ :=
      exceptionEntry_fails (s := State.entryFailed { s with mem := m, dirty := d } n) ret hb3
    rw [hentry2]
    exact ⟨sameOutside.trans hout hout2, rfl⟩

/-- Any other blocked entry becomes that of a HardFault. -/
theorem takeException_escalates {s : State} {n : Nat} (ret : Word) (hb : EntryBlocked s n) (hn : n ≠ 3)
    (hp : -1 < s.execPriority) (h3 : EntryPossible s 3) :
    Entered { s with scs := s.scs.clearPending n } (takeException n ret s) 3 ret := by
  obtain ⟨x, m, d, hentry, hout⟩ := exceptionEntry_fails ret hb
  obtain ⟨m2, d2, hentry2, hframe, hother⟩ :=
    exceptionEntry_plain (s := State.entryFailed { s with mem := m, dirty := d } n) ret h3
  rw [takeException, hentry]
  simp only
  rw [if_neg (by omega), hentry2]
  exact (enterHandler_entered hframe hother).before hout

/-- Settles O50: `takeException_entered`, `takeException_locked` and `takeException_escalates`. -/
theorem exceptionEntryStacksTheFrame : Obligations.ExceptionEntryStacksTheFrame := by
  intro s n ret _
  exact ⟨takeException_entered ret, fun hb => ⟨takeException_locked ret hb, takeException_escalates ret hb⟩⟩

/-! ### HardFaults (R306) -/

theorem hardFault_masked {s : State} (ret : Word) (hp : s.execPriority ≤ -1) :
    hardFault ret s = { s with lockup := true } := if_pos hp

theorem hardFault_locked {s : State} (ret : Word) (hp : -1 < s.execPriority) (hb : EntryBlocked s 3) :
    LockedInEntry s (hardFault ret s) := by
  rw [hardFault, if_neg (by omega)]
  exact takeException_locked ret hb (.inl rfl)

/-- A trap at priority -1 or -2 is Lockup. -/
theorem raise_masked {s : State} {x : Trap} {ret : Word} (hm : s.cfg.trapModel = .armv6m)
    (hx : takeTrap x s = hardFault ret s) (hp : s.execPriority ≤ -1) : raise x s = .next { s with lockup := true } := by
  rw [raise_armv6m x hm, hx, hardFault_masked ret hp]

/-- An `SVC` whose priority does not allow it is a HardFault (R306). -/
theorem takeTrap_svCall_blocked {s : State} {u8 : BitVec 8} (hp : s.execPriority ≤ exceptionPriority s.scs 11) :
    takeTrap (.svCall u8) s = hardFault s.pc s := if_neg (not_lt.mpr hp)

/-- Settles O51: both are traps, taken by `takeTrap`. -/
theorem callsAndBreakpointsTakeTheirException : Obligations.CallsAndBreakpointsTakeTheirException := by
  intro s u8 hm
  have hsvc : exec (.svc u8) s = .next (takeTrap (.svCall u8) s) := raise_armv6m (.svCall u8) hm
  have hbkpt : exec (.bkpt u8) s = .next (hardFault s.pc s) := raise_armv6m (.breakpoint u8) hm
  refine ⟨fun hp hentry => ?svc, fun hp => ?blocked, becomesHardFault_of_next fun _ => hbkpt, fun hp => ⟨?_, ?_⟩⟩
  case svc =>
    refine ⟨_, hsvc, ?_⟩
    rw [takeTrap, if_pos hp]
    exact takeException_entered _ hentry
  case blocked => exact becomesHardFault_of_next fun _ => by rw [hsvc, takeTrap_svCall_blocked hp]
  · exact raise_masked hm rfl hp
  · have h11 : 0 ≤ exceptionPriority s.scs 11 :=
      (exceptionPriority_bounds s.scs 11).2.1 (by decide) (by decide) (by decide)
    exact raise_masked hm (takeTrap_svCall_blocked (by omega)) hp

/-! ### Faults, Lockup and `T` = 0 (R306, R313, R332) -/

/-- R332: in Thread mode the HardFault of `T` = 0 ends in Lockup. -/
theorem raiseThumbClear_armv6m {s : State} (hm : s.cfg.trapModel = .armv6m) :
    raiseThumbClear s = .next (if s.mode = .thread then { hardFault (clearBit0 s.pc) s with lockup := true }
      else hardFault (clearBit0 s.pc) s) := by
  rw [raiseThumbClear, raise_armv6m _ hm]
  rfl

theorem raiseThumbClear_terminal {s : State} (hm : s.cfg.trapModel = .terminal) :
    raiseThumbClear s = .fault (.invalidState s.pc s.pc s) := by
  rw [raiseThumbClear, raise_terminal _ hm]
  rfl

/-- Settles O52: each fault is `hardFault`, which is entered, masked or blocked; the steps by `step_lockup` and
`step_thumbClear`. -/
theorem faultsBecomeHardFaultOrLockup : Obligations.FaultsBecomeHardFaultOrLockup := by
  intro s h h2 a k
  have hundefined (hm : s.cfg.trapModel = .armv6m) := raise_armv6m (s := s) (.undefinedInstruction h h2) hm
  have hunaligned (hm : s.cfg.trapModel = .armv6m) := raise_armv6m (s := s) (.unalignedAccess a) hm
  have hbus (hm : s.cfg.trapModel = .armv6m) := raise_armv6m (s := s) (.busFault a k) hm
  have hstate (hm : s.cfg.trapModel = .armv6m) := raise_armv6m (s := s) (.invalidState a) hm
  refine ⟨becomesHardFault_of_next hundefined, becomesHardFault_of_next hunaligned, becomesHardFault_of_next hbus,
    becomesHardFault_of_next hstate, fun hm hp => ?masked, fun hm hp hb => ?blocked, fun hm hp hb => ?blockedState,
    fun hl hr => ?lockup, fun hr hl hw hT => ⟨fun hm => ?terminal, fun hn => ⟨fun hmode => ?handler, ?thread⟩⟩⟩
  case masked =>
    exact ⟨raise_masked hm rfl hp, raise_masked hm rfl hp, raise_masked hm rfl hp, raise_masked hm rfl hp⟩
  case blocked => exact ⟨_, hardFault_locked s.pc hp hb, hundefined hm, hunaligned hm, hbus hm⟩
  case blockedState => exact ⟨_, hardFault_locked (clearBit0 a) hp hb, hstate hm⟩
  case lockup =>
    rw [step_lockup hr hl]
    refine ⟨fun hstay => if_neg ?_, fun hnmi hm hp hentry => ⟨_, if_pos ⟨hm, hnmi, hp⟩, takeException_entered _ hentry⟩⟩
    rintro ⟨hm, hnmi, hp⟩
    rcases hstay with hno | hterm | hprio
    · rw [hnmi] at hno
      cases hno
    · rw [hm] at hterm
      cases hterm
    · omega
  case terminal =>
    rw [step_thumbClear hr hl hw hT (fun harm => by rw [hm] at harm; cases harm), raiseThumbClear_terminal hm]
  case handler =>
    have hstep := step_thumbClear hr hl hw hT fun _ => hn
    refine becomesHardFault_of_next fun hm => ?_
    rw [hstep, raiseThumbClear_armv6m hm, hmode]
    rfl
  case thread =>
    intro hmode hm hp hentry
    have hstep := step_thumbClear hr hl hw hT fun _ => hn
    rw [raiseThumbClear_armv6m hm, if_pos hmode] at hstep
    exact ⟨_, hstep, hardFault_entered _ hp hentry⟩

end Sys2Proof.Claims

/-! PROOFS. Exception return (R306, R308, R311, R313): where it is legal and where it fails. -/

namespace Sys2Proof.Claims
open Sys2Proof.Machine

/-! ### Legal and failing returns -/

theorem legalExcReturn_iff (v : Word) :
    legalExcReturn v = true ↔ v = 0xFFFFFFF1#32 ∨ v = 0xFFFFFFF9#32 ∨ v = 0xFFFFFFFD#32 := by
  simp only [legalExcReturn, Bool.or_eq_true, beq_iff_eq, or_assoc]
  rfl

/-- The eight words of a frame. -/
theorem wordsAt_frame (s : State) (a : Word) : wordsAt s a 8 =
    [wordAt s a, wordAt s (a + 0x04), wordAt s (a + 0x08), wordAt s (a + 0x0C), wordAt s (a + 0x10),
      wordAt s (a + 0x14), wordAt s (a + 0x18), wordAt s (a + 0x1C)] :=
  congrArg (fun b => wordAt s b :: (wordsAt s a 8).tail) (BitVec.add_zero a)

/-- The state after a return, in the words of the claim. -/
theorem leaveHandler_eq_returned {s : State} {exc : Word} (hT : (returnPsr s exc).getLsbD 24 = true) :
    s.leaveHandler exc (returnFrame s exc) (wordAt s (returnFrame s exc)) (wordAt s (returnFrame s exc + 0x04))
      (wordAt s (returnFrame s exc + 0x08)) (wordAt s (returnFrame s exc + 0x0C))
      (wordAt s (returnFrame s exc + 0x10)) (wordAt s (returnFrame s exc + 0x14))
      (wordAt s (returnFrame s exc + 0x18)) (returnPsr s exc) = returned s exc := by
  rw [State.leaveHandler, hT]
  rfl

/-- A legal return of a frame in plain memory, by its stacked `T`. -/
theorem exceptionReturn_plain {s : State} {exc : Word} (hlegal : legalExcReturn exc = true)
    (halign : returnFrame s exc &&& 3#32 = 0) (hplain : plainWords s .read (returnFrame s exc) 8) :
    exceptionReturn exc s = if (returnPsr s exc).getLsbD 24 then returned s exc else hardFault s.pc s := by
  have hread := readWords_wordsAt (aligned_of_and halign) hplain
  rw [wordsAt_frame] at hread
  rw [exceptionReturn, if_pos hlegal]
  simp only
  rw [← returnFrame, hread]
  exact ite_congr rfl leaveHandler_eq_returned fun _ => rfl

theorem exceptionReturn_legal {s : State} {exc : Word} (h : ReturnPossible s exc) :
    exceptionReturn exc s = returned s exc := by
  obtain ⟨-, -, hlegal, halign, hplain, hT⟩ := h
  rw [exceptionReturn_plain ((legalExcReturn_iff exc).mpr hlegal) halign hplain, if_pos hT]

theorem exceptionReturn_fails {s : State} {exc : Word} (h : ReturnFails s exc) :
    exceptionReturn exc s = hardFault s.pc s := by
  obtain ⟨-, -, -, hfails⟩ := h
  by_cases hlegal : legalExcReturn exc = true
  · rcases hfails with hillegal | ⟨halign, ⟨k, hk, hplain, hnone⟩ | ⟨hplain, hT⟩⟩
    · have := (legalExcReturn_iff exc).mp hlegal
      tauto
    · have hread := readWords_blocked _ 8 k s (aligned_of_and halign) hk hplain hnone
      rw [returnFrame] at hread
      rw [exceptionReturn, if_pos hlegal]
      simp only [hread]
    · rw [exceptionReturn_plain hlegal halign hplain, hT, if_neg Bool.false_ne_true]
  · rw [exceptionReturn, if_neg hlegal]

theorem ReturnPossible.isExceptionReturn {s : State} {exc : Word} (h : ReturnPossible s exc) :
    s.isExceptionReturn exc = true := by
  obtain ⟨hm, hmode, hlegal, -⟩ := h
  refine (isExceptionReturn_iff s exc).mpr ⟨hm, hmode, ?_⟩
  rcases hlegal with rfl | rfl | rfl
  all_goals rfl

theorem ReturnFails.isExceptionReturn {s : State} {exc : Word} (h : ReturnFails s exc) :
    s.isExceptionReturn exc = true := by
  obtain ⟨hm, hmode, hexc, -⟩ := h
  exact (isExceptionReturn_iff s exc).mpr ⟨hm, hmode, hexc⟩

theorem branchTo_return {s : State} {v : Word} (h : s.isExceptionReturn v = true) :
    branchTo v s = .next (exceptionReturn v s) := by
  rw [branchTo, if_pos h]

theorem branchTo_legal {s : State} {v : Word} (h : ReturnPossible s v) : branchTo v s = .next (returned s v) := by
  rw [branchTo_return h.isExceptionReturn, exceptionReturn_legal h]

/-- A failing return is a HardFault at the branch, or Lockup. -/
theorem becomesHardFault_of_return {o : Host.Outcome State Fault Refusal} {u : State} {exc : Word}
    (ho : o = .next (exceptionReturn exc u)) (h : ReturnFails u exc) :
    BecomesHardFault o u u.pc ∧ (u.execPriority ≤ -1 → o = .next { u with lockup := true }) := by
  rw [exceptionReturn_fails h] at ho
  exact ⟨becomesHardFault_of_next fun _ => ho, fun hp => by rw [ho, hardFault_masked _ hp]⟩

/-- A `POP` whose last word is an `EXC_RETURN` returns from the state after its loads. -/
theorem execPop_return {s : State} {list : BitVec 9} (h8 : list.getLsbD 8 = true) (hsp : s.sp &&& 3#32 = 0)
    (hc : plainWords s .read s.sp (popCount list))
    (hexc : (popped s list).isExceptionReturn (wordAt s (wordUp s.sp (listCount (list.setWidth 8)))) = true) :
    exec (.pop list) s =
      .next (exceptionReturn (wordAt s (wordUp s.sp (listCount (list.setWidth 8)))) (popped s list)) := by
  have hne : list ≠ 0 := by
    rintro rfl
    cases h8
  have hsame : s.isExceptionReturn (wordAt s (wordUp s.sp (listCount (list.setWidth 8)))) = true := by
    rw [isExceptionReturn_iff, popped_eq] at hexc
    have hstack := withStack_undisturbed s (wordUp s.sp (popCount list))
    rw [isExceptionReturn_iff, ← hstack.cfg, ← hstack.mode]
    exact hexc
  refine (execPop_plain hne hsp hc).trans ?_
  rw [if_pos h8, if_pos hsame]

/-- The state after the loads, by its registers. -/
theorem eq_popped {s u : State} {list : BitVec 9}
    (hlo : ∀ r : BitVec 3, u.lo r = if (list.setWidth 8).getLsbD r.toNat then
      wordAt s (wordUp s.sp (below (list.setWidth 8) r)) else s.lo r) (hhigh : sameHigh s u)
    (hu : u = { withStack s (wordUp s.sp (popCount list)) with regs := u.regs }) : u = popped s list := by
  have hregs : u.regs = (popped s list).regs :=
    regs_ext (fun r => (hlo r).trans (popped_lo s list r).symm) fun k hk =>
      (hhigh k hk).trans (sameHigh_popped s list k hk).symm
  rw [hu, hregs, ← popped_eq]

/-- Settles O53: each form is an `exceptionReturn`, legal or failing. -/
theorem exceptionReturnRestoresTheFrame : Obligations.ExceptionReturnRestoresTheFrame := by
  intro s rm list
  have hgoto (hrm : rm ≠ 15) : exec (.gotoReg rm) s = branchTo (s.reg rm) s := if_neg hrm
  refine ⟨fun hrm h => (hgoto hrm).trans (branchTo_legal h), branchTo_legal, ?pop, fun hrm h => ?goto, fun h => ?ret⟩
  case pop =>
    intro low exc u h8 hsp hplain hlo hhigh hu
    have hcount : listCount low + 1 = popCount list := by rw [popCount_eq, if_pos h8]
    rw [hcount] at hplain hu
    obtain rfl := eq_popped hlo hhigh hu
    have hpop (h : (popped s list).isExceptionReturn exc = true) := execPop_return h8 hsp hplain h
    refine ⟨fun h => ?_, fun h => ?_⟩
    · rw [hpop h.isExceptionReturn, exceptionReturn_legal h]
    · rw [← popped_pc s list]
      exact becomesHardFault_of_return (hpop h.isExceptionReturn) h
  case goto => exact becomesHardFault_of_return ((hgoto hrm).trans (branchTo_return h.isExceptionReturn)) h
  case ret => exact becomesHardFault_of_return (branchTo_return h.isExceptionReturn) h

end Sys2Proof.Claims

/-! PROOFS. The return from an exception undoes its entry (R309, R311): the stack pointer, the stacked `xPSR`, the
`EXC_RETURN` and the registers come back. -/

namespace Sys2Proof.Claims
open Sys2Proof.Machine

/-! ### The stack pointer -/

theorem and_not_or_and (v m : Word) : (v &&& ~~~m) ||| (v &&& m) = v := by
  rw [← BitVec.and_or_distrib_left, BitVec.or_comm, BitVec.or_not_self, BitVec.and_allOnes]

theorem and_not_add_and (v m : Word) : (v &&& ~~~m) + (v &&& m) = v := by
  have hdisjoint : (v &&& ~~~m) &&& (v &&& m) = 0#32 := by
    refine BitVec.eq_of_getLsbD_eq fun i _ => ?_
    rw [BitVec.getLsbD_and, getLsbD_and_not, BitVec.getLsbD_and, BitVec.getLsbD_zero]
    cases m.getLsbD i <;> simp
  rw [BitVec.add_eq_or_of_and_eq_zero _ _ hdisjoint, and_not_or_and]

theorem and_four (v : Word) : v &&& 4#32 = if v.getLsbD 2 then 4#32 else 0 := BitVec.and_twoPow v 2

/-- A frame's size is a multiple of 8. -/
theorem sub_frame_and_four (a : Word) : (a - 0x20) &&& 4#32 = a &&& 4#32 := by
  have hbit : (a - 0x20).getLsbD 2 = a.getLsbD 2 := by
    have h20 : (0x20 : Word).toNat = 32 := rfl
    simp only [BitVec.getLsbD, Nat.testBit_eq_decide_div_mod_eq, BitVec.toNat_sub, h20]
    congr 1
    rw [eq_iff_iff]
    omega
  rw [and_four, and_four, hbit]

/-- R309, R311: what the entry takes off the stack, with bit 2 kept in `xPSR`, the return puts back. -/
theorem stack_roundTrip (a : Word) :
    ((((a - 0x20) &&& ~~~4#32) + 0x20) &&& ~~~4#32) ||| (if a.getLsbD 2 then 4#32 else 0) = a := by
  have hframe : ((a - 0x20) &&& ~~~4#32) + 0x20 = a &&& ~~~4#32 := by
    have hsub := and_not_add_and (a - 0x20) 4#32
    have ha := and_not_add_and a 4#32
    rw [sub_frame_and_four] at hsub
    linear_combination hsub - ha
  rw [hframe, BitVec.and_assoc, BitVec.and_self, ← and_four, and_not_or_and]

/-! ### The stacked `xPSR` -/

theorem stackedPsr_flags (s : State) : Flags.ofWord (stackedPsr s) = s.flags := by
  simp only [Flags.ofWord, stackedPsr, BitVec.getLsbD_append]
  simp

theorem stackedPsr_t (s : State) : (stackedPsr s).getLsbD 24 = s.epsrT := by
  simp only [stackedPsr, BitVec.getLsbD_append]
  simp

theorem stackedPsr_align (s : State) : (stackedPsr s).getLsbD 9 = s.sp.getLsbD 2 := by
  simp only [stackedPsr, BitVec.getLsbD_append]
  simp

theorem stackedPsr_ipsr (s : State) : (stackedPsr s).extractLsb' 0 6 = s.ipsr := by
  refine BitVec.eq_of_getLsbD_eq fun i hi => ?_
  rw [BitVec.getLsbD_extractLsb', Nat.zero_add, stackedPsr, BitVec.getLsbD_append]
  simp [hi]

/-! ### The handler's state -/

theorem excReturn_legal (s : State) :
    s.excReturn = 0xFFFFFFF1#32 ∨ s.excReturn = 0xFFFFFFF9#32 ∨ s.excReturn = 0xFFFFFFFD#32 := by
  unfold State.excReturn
  split_ifs
  all_goals simp

/-- The `EXC_RETURN` names the mode and the stack that were in use. -/
theorem excReturn_handler_iff (s : State) : s.excReturn = 0xFFFFFFF1#32 ↔ s.mode = .handler := by
  unfold State.excReturn
  split_ifs with h
  all_goals simp [h]

theorem excReturn_psp_iff (s : State) : s.excReturn = 0xFFFFFFFD#32 ↔ s.mode = .thread ∧ s.spsel = true := by
  rw [excReturn_eq]
  cases s.mode with
  | thread => cases s.spsel <;> decide
  | handler => simp

section Handler

variable {s t : State} {n : Nat} {ret : Word} (h : Entered s t n ret)

include h

theorem Entered.lr_eq : t.lr = s.excReturn := by
  obtain ⟨-, -, ht⟩ := h
  rw [ht, excReturn_eq]

theorem Entered.frame_eq : returnFrame t t.lr = frameOf s := by
  have hlr := h.lr_eq
  obtain ⟨-, -, ht⟩ := h
  rw [returnFrame, hlr, ht]
  by_cases hpsp : s.mode = .thread ∧ s.spsel = true
  · rw [if_pos ((excReturn_psp_iff s).mpr hpsp)]
    exact if_pos hpsp
  · rw [if_neg (mt (excReturn_psp_iff s).mp hpsp)]
    exact if_neg hpsp

theorem Entered.psr_eq : returnPsr t t.lr = stackedPsr s := by
  rw [returnPsr, h.frame_eq]
  obtain ⟨⟨-, -, -, -, -, -, -, hpsr⟩, -, -⟩ := h
  exact hpsr

/-- The stack pointer that was in use. -/
theorem Entered.stack_eq : returnStack t t.lr = s.sp := by
  rw [returnStack, h.frame_eq, h.psr_eq, stackedPsr_align]
  exact stack_roundTrip s.sp

theorem Entered.msp_restored : (if t.lr = 0xFFFFFFFD#32 then t.msp else s.sp) = s.msp := by
  rw [h.lr_eq, if_congr (excReturn_psp_iff s) rfl rfl]
  obtain ⟨-, -, ht⟩ := h
  split
  · next hp => rw [ht]; exact if_pos hp
  · next hp => rw [sp_eq]; exact if_neg hp

theorem Entered.psp_restored : (if t.lr = 0xFFFFFFFD#32 then s.sp else t.psp) = s.psp := by
  rw [h.lr_eq, if_congr (excReturn_psp_iff s) rfl rfl]
  obtain ⟨-, -, ht⟩ := h
  split
  · next hp => rw [sp_eq]; exact if_pos hp
  · next hp => rw [ht]; exact if_neg hp

theorem Entered.mode_restored : (if t.lr = 0xFFFFFFF1#32 then Mode.handler else .thread) = s.mode := by
  rw [h.lr_eq, if_congr (excReturn_handler_iff s) rfl rfl]
  cases s.mode <;> rfl

theorem Entered.spsel_restored (hspsel : s.mode = .handler → s.spsel = false) :
    (t.lr == 0xFFFFFFFD#32) = s.spsel := by
  rw [Bool.eq_iff_iff, beq_iff_eq, h.lr_eq, excReturn_psp_iff]
  refine and_iff_right_of_imp fun hp => ?_
  cases hthread : s.mode with
  | thread => rfl
  | handler =>
    rw [hspsel hthread] at hp
    cases hp

/-- The handler can return with its `EXC_RETURN`. -/
theorem Entered.returnPossible (hm : s.cfg.trapModel = .armv6m) (hT : s.epsrT = true) (hsp : s.sp &&& 3#32 = 0)
    (hread : plainWords s .read (frameOf s) 8) : ReturnPossible t t.lr := by
  have hlegal := excReturn_legal s
  rw [← h.lr_eq] at hlegal
  have hframe := h.frame_eq
  have hpsr := h.psr_eq
  obtain ⟨-, -, ht⟩ := h
  have hcfg : t.cfg = s.cfg := by rw [ht]
  have hmode : t.mode = .handler := by rw [ht]
  refine ⟨hcfg ▸ hm, hmode, hlegal, ?_, ?_, ?_⟩
  · rw [hframe]
    exact and_of_aligned (aligned_frameAddr hsp)
  · rw [hframe]
    exact plainWords_congr hcfg hread
  · rw [hpsr, stackedPsr_t, hT]

end Handler

/-! ### The return undoes the entry -/

/-- The registers of a frame, written back to where they were. -/
theorem frameRegs_restored (s : State) :
    ((((s.regs.set 0 (s.lo 0)).set 1 (s.lo 1)).set 2 (s.lo 2)).set 3 (s.lo 3)).set 12 (s.reg 12) = s.regs := by
  have h0 : s.regs.set 0 (s.lo 0) = s.regs := Vector.set_getElem_self _
  have h1 : s.regs.set 1 (s.lo 1) = s.regs := Vector.set_getElem_self _
  have h2 : s.regs.set 2 (s.lo 2) = s.regs := Vector.set_getElem_self _
  have h3 : s.regs.set 3 (s.lo 3) = s.regs := Vector.set_getElem_self _
  have h12 : s.regs.set 12 (s.reg 12) = s.regs := Vector.set_getElem_self _
  rw [h0, h1, h2, h3, h12]

/-- An exception that was entered ends, and the one that was active before is again. -/
theorem active_restored (l : List Nat) {n : Nat} (hn : n < 48) :
    (n :: l).erase (BitVec.ofNat 6 n).toNat = l := by
  have hnum : (BitVec.ofNat 6 n).toNat = n := by
    rw [BitVec.toNat_ofNat, Nat.mod_eq_of_lt]
    omega
  rw [hnum, List.erase_cons_head]

/-- R311 after R309, field by field. -/
theorem returned_of_entered {s t : State} {n : Nat} (hn : n < 48) (hinv : s.Inv) (hT : s.epsrT = true)
    (h : Entered s t n s.pc) :
    returned t t.lr = { s with
      mem := t.mem, dirty := [], eventReg := true, scs := s.scs.clearPending n, waiting := none, lockup := false } := by
  have hframe := h.frame_eq
  have hpsr := h.psr_eq
  have hstack := h.stack_eq
  obtain ⟨-, heven, -, -, hspsel⟩ := hinv
  have hflags : (⟨(stackedPsr s).getLsbD 31, (stackedPsr s).getLsbD 30, (stackedPsr s).getLsbD 29,
      (stackedPsr s).getLsbD 28⟩ : Flags) = s.flags := stackedPsr_flags s
  have hmsp := h.msp_restored
  have hpsp := h.psp_restored
  have hmode := h.mode_restored
  have hsel := h.spsel_restored hspsel
  obtain ⟨⟨h0, h1, h2, h3, h12, hlink, hpc, -⟩, -, ht⟩ := h
  have hregs : t.regs = s.regs := by rw [ht]
  have hactive : t.active.erase t.ipsr.toNat = s.active := by
    rw [ht]
    exact active_restored s.active hn
  have heven' : s.pc &&& ~~~1#32 = s.pc := heven
  simp only [returned, hframe, hpsr, hstack, h0, h1, h2, h3, h12, hlink, hpc, hflags, hmsp, hpsp, hmode, hsel, hregs,
    hactive, heven', stackedPsr_ipsr, frameRegs_restored]
  rw [ht, ← hT]

/-- Settles O54: the handler's state is that of `Entered`, and returns by `returned_of_entered`. -/
theorem returnUndoesEntry : Obligations.ReturnUndoesEntry := by
  intro s n hn hinv hT hm hentry hread t
  have hentered : Entered s t n s.pc := takeException_entered s.pc hentry
  obtain ⟨hsp, -, -⟩ := hentry
  refine (branchTo_legal (hentered.returnPossible hm hT hsp hread)).trans ?_
  rw [returned_of_entered hn hinv hT hentered]

end Sys2Proof.Claims
